-- ==== Sys2Proof/Word.lean ====
section
/-! DEFINITION. The machine's one data unit, the 16-bit word, and the width of the cursors (spec/00_scope.md R5, R6). -/

namespace Sys2Proof

/-- The word: 16 bits, the only data unit (R5, WORD_W = 16). Opcodes, operands and every memory cell are one word. -/
abbrev Word := BitVec 16

/-- A cursor register: 16 bits, two's complement, read with `BitVec.toInt` (R6, CURSOR_W = 16; R21). -/
abbrev Cursor := BitVec 16

end Sys2Proof
end

