-- ==== Sys2Proof/Config.lean ====
section
/-! DEFINITION. The implementation parameters of spec/00_scope.md R6: the capacities, OPCODE_MAP and RET_CHECK.
They are plain data; `Params.wf` (WellFormed.lean) is the range R6 gives them. -/

namespace Sys2Proof

/-- The twenty opcodes, in the order of the opcode map of spec/30_encoding.md R72. -/
inductive Opcode where
  | nop | ldi | ldf | ldh | stf | sth | drop | res | lt | eq
  | br | brt | brf | add | sub | mul | trap | call | ret | halt
deriving DecidableEq, Repr

/-- Every opcode, once, in the order of R72. -/
def Opcode.all : List Opcode :=
  [.nop, .ldi, .ldf, .ldh, .stf, .sth, .drop, .res, .lt, .eq] ++
  [.br, .brt, .brf, .add, .sub, .mul, .trap, .call, .ret, .halt]

/-- OPCODE_MAP (R73): the opcode word of each of the twenty opcodes. Injectivity is `OpcodeMap.wf`. -/
structure OpcodeMap where
  nop : Word
  ldi : Word
  ldf : Word
  ldh : Word
  stf : Word
  sth : Word
  drop : Word
  res : Word
  lt : Word
  eq : Word
  br : Word
  brt : Word
  brf : Word
  add : Word
  sub : Word
  mul : Word
  trap : Word
  call : Word
  ret : Word
  halt : Word
deriving DecidableEq, Repr

/-- The opcode word a map gives an opcode (R72, R73). -/
def OpcodeMap.word (m : OpcodeMap) : Opcode → Word
  | .nop => m.nop
  | .ldi => m.ldi
  | .ldf => m.ldf
  | .ldh => m.ldh
  | .stf => m.stf
  | .sth => m.sth
  | .drop => m.drop
  | .res => m.res
  | .lt => m.lt
  | .eq => m.eq
  | .br => m.br
  | .brt => m.brt
  | .brf => m.brf
  | .add => m.add
  | .sub => m.sub
  | .mul => m.mul
  | .trap => m.trap
  | .call => m.call
  | .ret => m.ret
  | .halt => m.halt

/-- RET_CHECK (R6, D14): whether RET checks that exactly one value lies above the frame anchor. -/
inductive RetCheck where
  /-- RET faults FRAME_IMBALANCE unless SP = FP + 1 (spec/47_call_return.md R192). -/
  | strict
  /-- RET has no balance check (spec/47_call_return.md R194). -/
  | original
deriving DecidableEq, Repr

/-- The parameters of R6 that a rule of the spec reads. WORD_W and CURSOR_W are the widths of `Word` and `Cursor`;
MEM_INIT is "unspecified" (D16), which is what an unlisted memory cell stands for; PROG_BYTE_ORDER reaches no rule (R51). -/
structure Params where
  /-- STACK_CAP, operand-stack capacity in words. -/
  stackCap : Nat
  /-- LINK_CAP, linkage-stack capacity in words. -/
  linkCap : Nat
  /-- HEAP_CAP, heap capacity in words. -/
  heapCap : Nat
  /-- PROG_CAP, the largest program length in words. -/
  progCap : Nat
  /-- OPCODE_MAP (R73). -/
  opcodeMap : OpcodeMap
  /-- RET_CHECK (D14). -/
  retCheck : RetCheck
deriving DecidableEq, Repr

end Sys2Proof
end

