-- ==== Sys2Proof/Syntax.lean ====
section
/-! DEFINITION. The instructions: one constructor per row of spec/opcode_table.json, with its operand words in word order
(spec/30_encoding.md R70, R72). An operand is one whole word (R74); how it is read is the meaning's business. -/

namespace Sys2Proof

/-- The twenty instructions of R72 with their operand words. -/
inductive Instr where
  /-- NOP, no-op (R120). -/
  | nop
  /-- LDI value, load-immediate (R121). -/
  | ldi (value : Word)
  /-- LDF offset, load-frame-relative (R122). -/
  | ldf (offset : Word)
  /-- LDH address, load-heap (R123). -/
  | ldh (address : Word)
  /-- STF offset, store-frame-relative (R124). -/
  | stf (offset : Word)
  /-- STH address, store-heap (R125). -/
  | sth (address : Word)
  /-- DROP count (R140). -/
  | drop (count : Word)
  /-- RES count, reserve-locals (R141). -/
  | res (count : Word)
  /-- LT, less-than (R150). -/
  | lt
  /-- EQ, equal (R151). -/
  | eq
  /-- BR target, branch (R160). -/
  | br (target : Word)
  /-- BRT target, branch-if-true (R161). -/
  | brt (target : Word)
  /-- BRF target, branch-if-false (R162). -/
  | brf (target : Word)
  /-- ADD (R170). -/
  | add
  /-- SUB (R171). -/
  | sub
  /-- MUL (R172). -/
  | mul
  /-- TRAP code (R180). -/
  | trap (code : Word)
  /-- CALL target, nargs (R190). -/
  | call (target nargs : Word)
  /-- RET, return (R192). -/
  | ret
  /-- HALT (R200). -/
  | halt
deriving DecidableEq, Repr

end Sys2Proof
end

