-- ==== Sys2Proof/WellFormed.lean ====
section
/-! DEFINITION. The checks of the spec on syntax and on parameters: an injective OPCODE_MAP (spec/30_encoding.md R73), the
ranges of the capacities (spec/00_scope.md R6), and the instructions, whose operands admit every word (R77). -/

namespace Sys2Proof

/-- OPCODE_MAP is an injective map from the twenty opcodes to words (R6, R73). -/
abbrev OpcodeMap.wf (m : OpcodeMap) : Prop := (Opcode.all.map m.word).Nodup

/-- The ranges R6 gives the parameters: 1 ≤ STACK_CAP ≤ 32767, and the other capacities at most 32767 (D25). -/
abbrev Params.wf (p : Params) : Prop :=
  1 ≤ p.stackCap ∧ p.stackCap ≤ 32767 ∧ p.linkCap ≤ 32767 ∧ p.heapCap ≤ 32767 ∧ p.progCap ≤ 32767 ∧ p.opcodeMap.wf

/-- A well-formed instruction. "Every 16-bit word is legal in every operand position" (R77), and the constructor fixes
how many operand words there are, so every term of `Instr` is well formed. One arm per constructor, so that a check on a
new instruction cannot be forgotten. -/
def Instr.wf : Instr → Bool
  | .nop => true
  | .ldi _ => true
  | .ldf _ => true
  | .ldh _ => true
  | .stf _ => true
  | .sth _ => true
  | .drop _ => true
  | .res _ => true
  | .lt => true
  | .eq => true
  | .br _ => true
  | .brt _ => true
  | .brf _ => true
  | .add => true
  | .sub => true
  | .mul => true
  | .trap _ => true
  | .call _ _ => true
  | .ret => true
  | .halt => true

end Sys2Proof
end

