-- ==== Sys2Proof/Decode.lean ====
section
/-! DEFINITION. Decoder and encoder (spec/30_encoding.md): the default opcode map, the metadata table, `decode` from the
words at an index to an instruction or a named rejection, and `encode`, written from the same tables. -/

namespace Sys2Proof

/-- The default OPCODE_MAP (R72, D1): the opcode values of the spec's table. -/
def defaultOpcodeMap : OpcodeMap where
  nop := 0x0000#16
  ldi := 0x0001#16
  ldf := 0x0002#16
  ldh := 0x0003#16
  stf := 0x0004#16
  sth := 0x0005#16
  drop := 0x0006#16
  res := 0x0007#16
  lt := 0x0008#16
  eq := 0x0009#16
  br := 0x000A#16
  brt := 0x000B#16
  brf := 0x000C#16
  add := 0x000D#16
  sub := 0x000E#16
  mul := 0x000F#16
  trap := 0x0010#16
  call := 0x0011#16
  ret := 0x0012#16
  halt := 0x0013#16

/-! ### The metadata table (R75, R76): one table drives dispatch, length and trace. -/

/-- The mnemonic of an opcode (R72, R76). -/
def Opcode.mnemonic : Opcode → String
  | .nop => "NOP"
  | .ldi => "LDI"
  | .ldf => "LDF"
  | .ldh => "LDH"
  | .stf => "STF"
  | .sth => "STH"
  | .drop => "DROP"
  | .res => "RES"
  | .lt => "LT"
  | .eq => "EQ"
  | .br => "BR"
  | .brt => "BRT"
  | .brf => "BRF"
  | .add => "ADD"
  | .sub => "SUB"
  | .mul => "MUL"
  | .trap => "TRAP"
  | .call => "CALL"
  | .ret => "RET"
  | .halt => "HALT"

/-- The operand-word count of an opcode (R75, R76). -/
def Opcode.ops : Opcode → Nat
  | .nop => 0
  | .ldi => 1
  | .ldf => 1
  | .ldh => 1
  | .stf => 1
  | .sth => 1
  | .drop => 1
  | .res => 1
  | .lt => 0
  | .eq => 0
  | .br => 1
  | .brt => 1
  | .brf => 1
  | .add => 0
  | .sub => 0
  | .mul => 0
  | .trap => 1
  | .call => 2
  | .ret => 0
  | .halt => 0

/-- The length of an instruction in words, `1 + ops(opcode)` (R75). -/
def Opcode.length (o : Opcode) : Nat := 1 + o.ops

/-- The opcode of an instruction. -/
def Instr.opcode : Instr → Opcode
  | .nop => .nop
  | .ldi _ => .ldi
  | .ldf _ => .ldf
  | .ldh _ => .ldh
  | .stf _ => .stf
  | .sth _ => .sth
  | .drop _ => .drop
  | .res _ => .res
  | .lt => .lt
  | .eq => .eq
  | .br _ => .br
  | .brt _ => .brt
  | .brf _ => .brf
  | .add => .add
  | .sub => .sub
  | .mul => .mul
  | .trap _ => .trap
  | .call _ _ => .call
  | .ret => .ret
  | .halt => .halt

/-- The operand words of an instruction, in word order (R70: operand A, then operand B). -/
def Instr.operands : Instr → List Word
  | .nop => []
  | .ldi a => [a]
  | .ldf a => [a]
  | .ldh a => [a]
  | .stf a => [a]
  | .sth a => [a]
  | .drop a => [a]
  | .res a => [a]
  | .lt => []
  | .eq => []
  | .br a => [a]
  | .brt a => [a]
  | .brf a => [a]
  | .add => []
  | .sub => []
  | .mul => []
  | .trap a => [a]
  | .call a b => [a, b]
  | .ret => []
  | .halt => []

/-! ### Decoding -/

/-- Why a list of words is no instruction. -/
inductive DecodeError where
  /-- there is no opcode word -/
  | noWord
  /-- the opcode word is not in the image of OPCODE_MAP (R77) -/
  | unknownOpcode (w : Word)
  /-- word `missing` of the instruction (0 is the opcode word) is not there (R93, D12) -/
  | truncated (missing : Nat)
deriving DecidableEq, Repr

/-- The opcode whose word is `w`: the whole word is compared (R71). -/
def OpcodeMap.opcode? (m : OpcodeMap) (w : Word) : Option Opcode :=
  Opcode.all.find? fun o => m.word o == w

/-- Format F0 (R70): no operand word. -/
def decodeF0 (i : Instr) (ws : List Word) : Except DecodeError (Instr × List Word) := .ok (i, ws)

/-- Format F1 (R70): operand A. -/
def decodeF1 (f : Word → Instr) : List Word → Except DecodeError (Instr × List Word)
  | a :: ws => .ok (f a, ws)
  | [] => .error (.truncated 1)

/-- Format F2 (R70): operand A, then operand B. -/
def decodeF2 (f : Word → Word → Instr) : List Word → Except DecodeError (Instr × List Word)
  | a :: b :: ws => .ok (f a b, ws)
  | [_] => .error (.truncated 2)
  | [] => .error (.truncated 1)

/-- The operand words of an opcode, read in word order (R72, R93). -/
def decodeOperands : Opcode → List Word → Except DecodeError (Instr × List Word)
  | .nop => decodeF0 .nop
  | .ldi => decodeF1 .ldi
  | .ldf => decodeF1 .ldf
  | .ldh => decodeF1 .ldh
  | .stf => decodeF1 .stf
  | .sth => decodeF1 .sth
  | .drop => decodeF1 .drop
  | .res => decodeF1 .res
  | .lt => decodeF0 .lt
  | .eq => decodeF0 .eq
  | .br => decodeF1 .br
  | .brt => decodeF1 .brt
  | .brf => decodeF1 .brf
  | .add => decodeF0 .add
  | .sub => decodeF0 .sub
  | .mul => decodeF0 .mul
  | .trap => decodeF1 .trap
  | .call => decodeF2 .call
  | .ret => decodeF0 .ret
  | .halt => decodeF0 .halt

/-- The decoder (R93): total on any words; it answers the instruction and the words after it, or a named rejection. The
opcode is checked before any operand is fetched (R217). -/
def decode (m : OpcodeMap) : List Word → Except DecodeError (Instr × List Word)
  | [] => .error .noWord
  | w :: ws =>
    match m.opcode? w with
    | none => .error (.unknownOpcode w)
    | some o => decodeOperands o ws

/-- The encoder (R70, R72): the opcode word, then the operand words. -/
def encode (m : OpcodeMap) (i : Instr) : List Word := m.word i.opcode :: i.operands

/-! ### The numbering of spec/opcode_table.json -/

/-- The three words of an instruction whose bits are `w` as the opcode table numbers them: bit 0 is the least significant
bit of the first word, a later word's bits count on from it, and every bit from `nbits` up is 0. -/
def tableWords (nbits w : Nat) : List Word :=
  [BitVec.ofNat 16 (w % 2 ^ nbits), BitVec.ofNat 16 (w % 2 ^ nbits / 2 ^ 16), BitVec.ofNat 16 (w % 2 ^ nbits / 2 ^ 32)]

/-- The instruction the decoder reads, under the default OPCODE_MAP, from an instruction given as table bits. -/
def decodeTableWord (nbits w : Nat) : Option Instr :=
  match decode defaultOpcodeMap (tableWords nbits w) with
  | .ok (i, _) => some i
  | .error _ => none

end Sys2Proof
end

