-- ==== Sys2Proof/Machine/Defaults.lean ====
section
/-! DEFINITION. The parameter values State.reset carries. -/

namespace Sys2Proof.Machine

/-- The parameters of `State.reset`. RET_CHECK strict and the opcode map are the spec's defaults (spec/00_scope.md R6,
spec/30_encoding.md R72). DESIGN CHOICE, unsafe (log 5): the capacities are OPEN in the spec (D25); 64, 64 and 16 are those
of the spec's own test vectors (spec/95_test_vectors.md section 2), and PROG_CAP is the largest value R6 allows. -/
def defaultParams : Params where
  stackCap := 64
  linkCap := 64
  heapCap := 16
  progCap := 32767
  opcodeMap := defaultOpcodeMap
  retCheck := .strict

end Sys2Proof.Machine
end

