-- ==== Sys2Proof/Machine/State.lean ====
section
/-! DEFINITION. The state of the engine (spec/10_state.md), its model-level faults and refusals, and the state after
power-up. -/

namespace Sys2Proof.Machine

/-- The four separate address spaces (spec/20_memory.md R50). -/
inductive Space where
  | prog | os | ls | heap
deriving DecidableEq, Repr

/-- One space's written cells: (index, word) pairs with strictly rising indices (`Memory.wf`). An index that is not listed
is a cell never written in the run: it has no value (D26, I3; log 2). Cells are 16-bit words, the smallest addressable unit
(R50, R51; log 1). -/
abbrev Memory := List (Nat × Word)

/-- STATUS, the 3-bit register of spec/10_state.md R28, by the names of its legal values; `Status.code` is its code. The
values 5 to 7 are never written (log 11). -/
inductive Status where
  | idle | running | halted | ended | faulted
deriving DecidableEq, Repr

/-- FAULT_CAUSE, the 4-bit register of R29, by the names of spec/60_exceptions.md R211; `Cause.code` is its code. The
values 12 to 15 are never written (log 11). -/
inductive Cause where
  | none | unknownOpcode | unknownTrap | stackOverflow | stackUnderflow | linkOverflow | linkUnderflow
  | heapRange | frameRange | truncatedInstruction | fetchRange | frameImbalance
deriving DecidableEq, Repr

/-- An event of one of the two output channels (R40). -/
inductive Event where
  /-- PreStep(ip0, op, operands): trace channel, spec/40_fetch_decode_execute.md R108. `opcode` is the metadata-table
  entry of the word `op`; its mnemonic is `opcode.mnemonic`. -/
  | preStep (ip0 : Cursor) (op : Word) (opcode : Opcode) (operands : List Word)
  /-- TrapOut(v): host output channel, spec/46_trap.md R181. -/
  | trapOut (v : Word)
  /-- PostStep(stack): trace channel, R109. `none` stands for a cell never written in the run, whose word is unspecified
  (DESIGN CHOICE, safe, log 8). -/
  | postStep (stack : List (Option Word))
deriving DecidableEq, Repr

/-- The whole state of the block: every row of spec/10_state.md R41, and the parameters (R6). -/
structure State where
  /-- IP, the instruction pointer (R22). -/
  ip : Cursor
  /-- FP, the frame pointer (R23). -/
  fp : Cursor
  /-- SP, the operand-stack pointer; -1 is the empty stack (R24). -/
  sp : Cursor
  /-- LSP, the linkage-stack pointer; -1 is the empty stack (R25). -/
  lsp : Cursor
  /-- OS, the operand stack (R34). -/
  os : Memory
  /-- LS, the linkage stack (R35). -/
  ls : Memory
  /-- HEAP (R36). -/
  heap : Memory
  /-- PROG, the program memory (R37). -/
  prog : Memory
  /-- PROG_LEN, unsigned (R33). -/
  progLen : BitVec 16
  /-- TRACE_EN (R32). -/
  traceEn : Bool
  /-- STATUS (R28). -/
  status : Status
  /-- FAULT_CAUSE (R29). -/
  faultCause : Cause
  /-- FAULT_IP, signed (R30). -/
  faultIp : Cursor
  /-- FAULT_INFO, signed (R31). -/
  faultInfo : BitVec 32
  /-- The host output channel and the trace channel, interleaved in execution order, oldest first (R40; log 7). -/
  channel : List Event
  /-- The implementation parameters (R6), the model's own field: no step and no host action writes it (log 5). -/
  params : Params
deriving DecidableEq, Repr

/-- Where the MODEL stops, outside FAULT_CAUSE. The architectural faults of R211 are next states (`takeFault`). -/
inductive Fault where
  /-- Raised by a read (pop, LDF, LDH, RET, fetch) of a cell never written in the run. The hardware returns an unspecified
  word; "a read of 'never written' stops the model with an error that is not a run outcome" (I3, D26, R244). Safe. -/
  | uninitialisedRead (space : Space) (index : Int)
  /-- Raised by an access to an index that names no cell (R50) where the spec gives no check, because no run reaches it
  (a stack pointer beyond its capacity). Safe (log 10). -/
  | noSuchCell (space : Space) (index : Int)
deriving DecidableEq, Repr

/-- Where the model gives no meaning. -/
inductive Refusal where
  /-- Raised by an arm of `exec` whose instruction has no meaning yet; no arm is one. Safe. -/
  | notModelled (mnemonic : String)
deriving DecidableEq, Repr

/-- The block with parameters `p` after power-up (spec/70_reset_and_hazards.md R241, R41): STATUS IDLE, fault registers 0,
channels empty, no cell written. DESIGN CHOICE, unsafe (log 4): the cursors, PROG_LEN and TRACE_EN are unspecified at
power-up; they have the values of the start of a run of an empty program, which no step reads before a start. -/
def State.powerUp (p : Params) : State where
  ip := 0#16
  fp := 0xFFFF#16
  sp := 0xFFFF#16
  lsp := 0xFFFF#16
  os := []
  ls := []
  heap := []
  prog := []
  progLen := 0#16
  traceEn := false
  status := .idle
  faultCause := .none
  faultIp := 0#16
  faultInfo := 0#32
  channel := []
  params := p

/-- The machine right after reset: power-up (R241) with the default parameters (log 5). -/
def State.reset : State := State.powerUp defaultParams

end Sys2Proof.Machine
end

