-- ==== Sys2Proof/Machine/Operands.lean ====
section
/-! DEFINITION. The integer views of a word (spec/00_scope.md R9) and the operand roles of spec/30_encoding.md R74. -/

namespace Sys2Proof.Machine

/-- `u16(w)`, the unsigned value, 0 to 65535 (R9). -/
abbrev u16 (w : Word) : Int := (w.toNat : Int)

/-- `s16(w)`, the two's complement value, -32768 to 32767 (R9). A cursor is read the same way (R10, R21). -/
abbrev s16 (w : Word) : Int := w.toInt

/-- `word(i)`, the word whose bits are `i mod 65536` (R9). -/
abbrev word (i : Int) : Word := BitVec.ofInt 16 i

/-- Frame-relative addressing (spec/41_noop_load_store.md R126): the index `FP + s16(offset) + 1`, an exact integer. -/
def frameIndex (s : State) (offset : Word) : Int := s16 s.fp + s16 offset + 1

/-- Heap absolute addressing (R126): the address `s16(address)`. -/
def heapAddress (address : Word) : Int := s16 address

/-- The count of DROP and RES, and RET's saved count: `s16` of the word (R74). -/
def countOf (w : Word) : Int := s16 w

/-- A branch or call target: the absolute program index `s16(target)` (spec/44_branch.md R163). -/
def targetOf (w : Word) : Int := s16 w

end Sys2Proof.Machine
end

