-- ==== Sys2Proof/Machine/Flags.lean ====
section
/-! DEFINITION. The machine has no flags (spec/10_state.md R27): a comparison pushes a truth word and a conditional branch
pops one. These are those words. -/

namespace Sys2Proof.Machine

/-- The word a comparison pushes: 0x0001 for true, 0x0000 for false (spec/43_compare.md). -/
def truthWord (b : Bool) : Word := if b then 0x0001#16 else 0x0000#16

/-- LT's condition: signed `s16(a) < s16(b)` (R150, D5). -/
def lessThan (a b : Word) : Bool := decide (s16 a < s16 b)

/-- EQ's condition: all 16 bits equal (R151). -/
def wordsEqual (a b : Word) : Bool := decide (a = b)

/-- BRT's condition: exactly 1 (spec/44_branch.md R161). -/
def isTrueWord (v : Word) : Bool := decide (v = 0x0001#16)

/-- BRF's condition: exactly 0 (R162). -/
def isFalseWord (v : Word) : Bool := decide (v = 0x0000#16)

end Sys2Proof.Machine
end

