-- ==== Sys2Proof/Machine/Memory.lean ====
section
/-! DEFINITION. The four memories as canonical lists: reading, writing and loading one space (spec/20_memory.md R50, R59). -/

namespace Sys2Proof.Machine

/-- The canonical form: indices strictly rising. An unlisted index has no value, so no listed entry equals what an
unlisted one reads as. -/
abbrev Memory.wf (m : Memory) : Prop := m.Pairwise fun c d => c.1 < d.1

/-- What a cell holds: the word of the most recent write (R59), or nothing for a cell never written in the run (I3). -/
def Memory.read : Memory → Nat → Option Word
  | [], _ => none
  | (b, w) :: m, a => if a = b then some w else Memory.read m a

/-- Write one cell, keeping the canonical form. -/
def Memory.write : Memory → Nat → Word → Memory
  | [], a, v => [(a, v)]
  | (b, w) :: m, a, v =>
    if a < b then (a, v) :: (b, w) :: m
    else if a = b then (a, v) :: m
    else (b, w) :: Memory.write m a v

/-- Write consecutive cells from index `a` up. -/
def Memory.writeWords : Memory → Nat → List Word → Memory
  | m, _, [] => m
  | m, a, w :: ws => Memory.writeWords (m.write a w) (a + 1) ws

/-- The memory whose cells 0, 1, … hold the given words and nothing else. -/
def Memory.ofWords (ws : List Word) : Memory := Memory.writeWords [] 0 ws

/-- The cells of a space. -/
def State.space (s : State) : Space → Memory
  | .prog => s.prog
  | .os => s.os
  | .ls => s.ls
  | .heap => s.heap

/-- The bound of a space: the indices 0 to one less name its cells, and an index at or above it names none (R50). PROG's
bound is PROG_LEN, not PROG_CAP (R50's table); the others' are their capacities. -/
def State.bound (s : State) : Space → Nat
  | .prog => s.progLen.toNat
  | .os => s.params.stackCap
  | .ls => s.params.linkCap
  | .heap => s.params.heapCap

/-- The state with a space's cells replaced. -/
def State.setSpace (s : State) (sp : Space) (m : Memory) : State :=
  match sp with
  | .prog => { s with prog := m }
  | .os => { s with os := m }
  | .ls => { s with ls := m }
  | .heap => { s with heap := m }

/-- An index names a cell of a space of `cap` cells (R50). -/
abbrev inRange (cap : Nat) (i : Int) : Prop := 0 ≤ i ∧ i ≤ (cap : Int) - 1

end Sys2Proof.Machine
end

