-- ==== Sys2Proof/Machine/Ops.lean ====
section
/-! DEFINITION. The primitives every instruction rule shares (spec/00_scope.md R10, R11), taking a fault
(spec/60_exceptions.md R215), and how a meaning's pseudocode becomes an outcome. -/

namespace Sys2Proof.Machine

/-! ### Cursor writes: `IP <- v` stores `word(v)` (R10; log 13) -/

/-- `IP <- v`. -/
def State.setIp (s : State) (v : Int) : State := { s with ip := word v }

/-- `FP <- v`. -/
def State.setFp (s : State) (v : Int) : State := { s with fp := word v }

/-- `SP <- v`. -/
def State.setSp (s : State) (v : Int) : State := { s with sp := word v }

/-- `LSP <- v`. -/
def State.setLsp (s : State) (v : Int) : State := { s with lsp := word v }

/-- `STATUS <- x`. -/
def State.setStatus (s : State) (x : Status) : State := { s with status := x }

/-- Append an event to its channel (R40). -/
def State.emit (s : State) (e : Event) : State := { s with channel := s.channel ++ [e] }

/-! ### Taking a fault -/

/-- Taking the fault `c` with information `x` in a step that began in state `s` (R215). Every write to cursors and memories
made in the step is discarded, because `s` is the state before them (R216); FAULT_CAUSE, FAULT_IP and FAULT_INFO are written
and STATUS becomes FAULTED. There is no handler and no return (R219). -/
def takeFault (c : Cause) (x : Int) (s : State) : State :=
  { s with faultCause := c, faultIp := s.ip, faultInfo := BitVec.ofInt 32 x, status := .faulted }

/-- Why a body of pseudocode did not reach its end. -/
inductive Stop where
  /-- `raise c(info = x)` (R11) -/
  | raise (c : Cause) (x : Int)
  /-- the model itself stops, outside FAULT_CAUSE -/
  | model (f : Fault)
deriving DecidableEq, Repr

/-- The outcome of a body run in a step that began in `s`: the state it reached, or the fault taken from `s` (R215, R216),
or the model's own stop. -/
def conclude (s : State) : Except Stop State → Host.Outcome State Fault Refusal
  | .ok t => .next t
  | .error (.raise c x) => .next (takeFault c x s)
  | .error (.model f) => .fault f

/-- `IP` moved past an instruction of opcode `o`: `ip0 + 1 + ops(o)`, what the loop and the operand fetches leave when the
rest of the rule starts (spec/40_fetch_decode_execute.md R93, R94). -/
def State.advance (s : State) (o : Opcode) : State := s.setIp (s16 s.ip + o.length)

/-- The meaning of an instruction of opcode `o` whose rule, after its operand fetches, is `body` (R12, R93). -/
def runBody (o : Opcode) (body : State → Except Stop State) (s : State) : Host.Outcome State Fault Refusal :=
  conclude s (body (s.advance o))

/-! ### Cells -/

/-- Read one cell (R10 `MemRead`). A never-written cell and an index that names no cell stop the model (I3; log 10). -/
def readCell (sp : Space) (i : Int) (s : State) : Except Stop Word :=
  if inRange (s.bound sp) i then
    match (s.space sp).read i.toNat with
    | some w => .ok w
    | none => .error (.model (.uninitialisedRead sp i))
  else .error (.model (.noSuchCell sp i))

/-- Write one cell (R10 `MemWrite`). -/
def writeCell (sp : Space) (i : Int) (v : Word) (s : State) : Except Stop State :=
  if inRange (s.bound sp) i then .ok (s.setSpace sp ((s.space sp).write i.toNat v))
  else .error (.model (.noSuchCell sp i))

/-! ### Operand stack -/

/-- `push(v)` (R11). -/
def push (v : Word) (s : State) : Except Stop State :=
  if s16 s.sp + 1 > (s.params.stackCap : Int) - 1 then .error (.raise .stackOverflow (s16 s.sp + 1))
  else writeCell .os (s16 s.sp + 1) v (s.setSp (s16 s.sp + 1))

/-- `pop()` (R11). -/
def pop (s : State) : Except Stop (Word × State) :=
  if s16 s.sp < 0 then .error (.raise .stackUnderflow (s16 s.sp))
  else do
    let v ← readCell .os (s16 s.sp) s
    pure (v, s.setSp (s16 s.sp - 1))

/-- The checked SP adjustment of DROP and RES (spec/42_stack_adjust.md R140, R141). -/
def adjustSp (newsp : Int) (s : State) : Except Stop State :=
  if newsp < -1 then .error (.raise .stackUnderflow newsp)
  else if newsp > (s.params.stackCap : Int) - 1 then .error (.raise .stackOverflow newsp)
  else .ok (s.setSp newsp)

/-- The shape of a binary operation: pop b, pop a, push `f a b` (spec/43_compare.md, spec/45_arithmetic.md). -/
def binary (f : Word → Word → Word) (s : State) : Except Stop State := do
  let (b, s) ← pop s
  let (a, s) ← pop s
  push (f a b) s

/-- The shape of a conditional branch: pop the value, then `IP <- s16(target)` if it is taken (spec/44_branch.md). -/
def popBranch (taken : Word → Bool) (target : Word) (s : State) : Except Stop State := do
  let (v, s) ← pop s
  pure (if taken v then s.setIp (targetOf target) else s)

end Sys2Proof.Machine
end

