-- ==== Sys2Proof/Machine/Arithmetic.lean ====
section
/-! DEFINITION. ADD, SUB and MUL (spec/45_arithmetic.md): the exact integer result, narrowed by `word` (R169). -/

namespace Sys2Proof.Machine

/-- ADD (R170): push word(u16(a) + u16(b)). -/
def execAdd (s : State) : Host.Outcome State Fault Refusal :=
  runBody .add (binary fun a b => word (u16 a + u16 b)) s

/-- SUB (R171): push word(u16(a) - u16(b)), the deeper value minus the top. -/
def execSub (s : State) : Host.Outcome State Fault Refusal :=
  runBody .sub (binary fun a b => word (u16 a - u16 b)) s

/-- MUL (R172): push word(u16(a) * u16(b)). -/
def execMul (s : State) : Host.Outcome State Fault Refusal :=
  runBody .mul (binary fun a b => word (u16 a * u16 b)) s

end Sys2Proof.Machine
end

