-- ==== Sys2Proof/Machine/Branch.lean ====
section
/-! DEFINITION. BR, BRT and BRF (spec/44_branch.md). A target is not checked here: the next step's top-of-loop test and
fetch handle it (R163). -/

namespace Sys2Proof.Machine

/-- BR target (R160): `IP <- s16(target)`. -/
def execBr (target : Word) (s : State) : Host.Outcome State Fault Refusal :=
  runBody .br (fun s => .ok (s.setIp (targetOf target))) s

/-- BRT target (R161): pop; taken only on exactly 1. -/
def execBrt (target : Word) (s : State) : Host.Outcome State Fault Refusal :=
  runBody .brt (popBranch isTrueWord target) s

/-- BRF target (R162): pop; taken only on exactly 0. -/
def execBrf (target : Word) (s : State) : Host.Outcome State Fault Refusal :=
  runBody .brf (popBranch isFalseWord target) s

end Sys2Proof.Machine
end

