-- ==== Sys2Proof/Machine/CallReturn.lean ====
section
/-! DEFINITION. CALL and RET (spec/47_call_return.md). -/

namespace Sys2Proof.Machine

/-- CALL after its operand fetches (R190): push the record {nargs, FP, IP} (R191), anchor the frame, jump. -/
def callBody (target nargs : Word) (s : State) : Except Stop State :=
  if s16 s.lsp + 3 > (s.params.linkCap : Int) - 1 then .error (.raise .linkOverflow (s16 s.lsp + 3))
  else do
    let s₁ ← writeCell .ls (s16 s.lsp + 1) nargs s
    let s₂ ← writeCell .ls (s16 s.lsp + 2) (word (s16 s.fp)) s₁
    let s₃ ← writeCell .ls (s16 s.lsp + 3) (word (s16 s.ip)) s₂
    pure (((s₃.setLsp (s16 s.lsp + 3)).setFp (s16 s.sp)).setIp (targetOf target))

/-- CALL target, nargs (R190). -/
def execCall (target nargs : Word) (s : State) : Host.Outcome State Fault Refusal :=
  runBody .call (callBody target nargs) s

/-- RET's balance check (R192): strict mode, and SP is not FP + 1. -/
abbrev imbalanced (s : State) : Prop := s.params.retCheck = .strict ∧ s16 s.sp ≠ s16 s.fp + 1

/-- RET's collapse of SP by the saved count, with its two checks, and the push of the return value (R192). -/
def collapse (newsp : Int) (rv : Word) (s : State) : Except Stop State :=
  if newsp < -1 then .error (.raise .stackUnderflow newsp)
  else if newsp > (s.params.stackCap : Int) - 2 then .error (.raise .stackOverflow (newsp + 1))
  else push rv (s.setSp newsp)

/-- RET (R192): no record, balance (strict mode only), pop the value, read the record, restore LSP, IP and FP, collapse. -/
def retBody (s : State) : Except Stop State :=
  if s16 s.lsp < 2 then .error (.raise .linkUnderflow (s16 s.lsp))
  else if imbalanced s then .error (.raise .frameImbalance (s16 s.sp - s16 s.fp))
  else do
    let (rv, s) ← pop s
    let retIp ← readCell .ls (s16 s.lsp) s
    let savedFp ← readCell .ls (s16 s.lsp - 1) s
    let n ← readCell .ls (s16 s.lsp - 2) s
    collapse (s16 s.sp - countOf n) rv (((s.setLsp (s16 s.lsp - 3)).setIp (s16 retIp)).setFp (s16 savedFp))

/-- RET (R192, R194). -/
def execRet (s : State) : Host.Outcome State Fault Refusal :=
  runBody .ret retBody s

end Sys2Proof.Machine
end

