-- ==== Sys2Proof/Machine/Compare.lean ====
section
/-! DEFINITION. LT and EQ (spec/43_compare.md). -/

namespace Sys2Proof.Machine

/-- LT (R150): pop b, pop a, push 1 if s16(a) < s16(b), else 0. -/
def execLt (s : State) : Host.Outcome State Fault Refusal :=
  runBody .lt (binary fun a b => truthWord (lessThan a b)) s

/-- EQ (R151): pop b, pop a, push 1 if a = b, else 0. -/
def execEq (s : State) : Host.Outcome State Fault Refusal :=
  runBody .eq (binary fun a b => truthWord (wordsEqual a b)) s

end Sys2Proof.Machine
end

