-- ==== Sys2Proof/Machine/Halt.lean ====
section
/-! DEFINITION. HALT (spec/48_halt.md). -/

namespace Sys2Proof.Machine

/-- HALT (R200): `STATUS <- HALTED`; IP is already `ip0 + 1` and nothing else changes. -/
def execHalt (s : State) : Host.Outcome State Fault Refusal :=
  runBody .halt (fun s => .ok (s.setStatus .halted)) s

end Sys2Proof.Machine
end

