-- ==== Sys2Proof/Machine/LoadStore.lean ====
section
/-! DEFINITION. NOP, LDI, LDF, LDH, STF, STH (spec/41_noop_load_store.md). -/

namespace Sys2Proof.Machine

/-- NOP (R120): no state change but IP. -/
def execNop (s : State) : Host.Outcome State Fault Refusal :=
  runBody .nop (fun s => .ok s) s

/-- LDI value (R121): push the raw word. -/
def execLdi (value : Word) (s : State) : Host.Outcome State Fault Refusal :=
  runBody .ldi (push value) s

/-- LDF after its operand fetch (R122): range check, read the slot, push. -/
def ldfBody (offset : Word) (s : State) : Except Stop State :=
  if inRange s.params.stackCap (frameIndex s offset) then do
    let v ← readCell .os (frameIndex s offset) s
    push v s
  else .error (.raise .frameRange (frameIndex s offset))

/-- LDF offset (R122). -/
def execLdf (offset : Word) (s : State) : Host.Outcome State Fault Refusal :=
  runBody .ldf (ldfBody offset) s

/-- LDH after its operand fetch (R123): range check, read the heap cell, push. -/
def ldhBody (address : Word) (s : State) : Except Stop State :=
  if inRange s.params.heapCap (heapAddress address) then do
    let v ← readCell .heap (heapAddress address) s
    push v s
  else .error (.raise .heapRange (heapAddress address))

/-- LDH address (R123). -/
def execLdh (address : Word) (s : State) : Host.Outcome State Fault Refusal :=
  runBody .ldh (ldhBody address) s

/-- STF after its operand fetch (R124): pop, range check, write the slot. -/
def stfBody (offset : Word) (s : State) : Except Stop State := do
  let (v, s) ← pop s
  if inRange s.params.stackCap (frameIndex s offset) then
    writeCell .os (frameIndex s offset) v s
  else .error (.raise .frameRange (frameIndex s offset))

/-- STF offset (R124). -/
def execStf (offset : Word) (s : State) : Host.Outcome State Fault Refusal :=
  runBody .stf (stfBody offset) s

/-- STH after its operand fetch (R125): pop, range check, write the heap cell. -/
def sthBody (address : Word) (s : State) : Except Stop State := do
  let (v, s) ← pop s
  if inRange s.params.heapCap (heapAddress address) then
    writeCell .heap (heapAddress address) v s
  else .error (.raise .heapRange (heapAddress address))

/-- STH address (R125). -/
def execSth (address : Word) (s : State) : Host.Outcome State Fault Refusal :=
  runBody .sth (sthBody address) s

end Sys2Proof.Machine
end

