-- ==== Sys2Proof/Machine/StackAdjust.lean ====
section
/-! DEFINITION. DROP and RES (spec/42_stack_adjust.md): they change SP only and touch no cell. -/

namespace Sys2Proof.Machine

/-- DROP count (R140): `SP <- SP - s16(count)`, checked. -/
def execDrop (count : Word) (s : State) : Host.Outcome State Fault Refusal :=
  runBody .drop (fun s => adjustSp (s16 s.sp - countOf count) s) s

/-- RES count (R141): `SP <- SP + s16(count)`, checked. -/
def execRes (count : Word) (s : State) : Host.Outcome State Fault Refusal :=
  runBody .res (fun s => adjustSp (s16 s.sp + countOf count) s) s

end Sys2Proof.Machine
end

