-- ==== Sys2Proof/Machine/Trap.lean ====
section
/-! DEFINITION. TRAP (spec/46_trap.md): the host call. -/

namespace Sys2Proof.Machine

/-- TRAP after its operand fetch (R180): the code is checked before the stack is touched; code 1 pops a word and emits it. -/
def trapBody (code : Word) (s : State) : Except Stop State :=
  if code ≠ 0x0001#16 then .error (.raise .unknownTrap (u16 code))
  else do
    let (v, s) ← pop s
    pure (s.emit (.trapOut v))

/-- TRAP code (R180, R182). -/
def execTrap (code : Word) (s : State) : Host.Outcome State Fault Refusal :=
  runBody .trap (trapBody code) s

end Sys2Proof.Machine
end

