-- ==== Sys2Proof/Machine/Dispatch.lean ====
section
/-! DEFINITION. The dispatch of an instruction to its meaning. `s` is the state at the start of the instruction's step,
with IP at its opcode word. -/

namespace Sys2Proof.Machine

def exec (i : Instr) (s : State) : Host.Outcome State Fault Refusal :=
  match i with
  | .nop => Sys2Proof.Machine.execNop s
  | .ldi value => Sys2Proof.Machine.execLdi value s
  | .ldf offset => Sys2Proof.Machine.execLdf offset s
  | .ldh address => Sys2Proof.Machine.execLdh address s
  | .stf offset => Sys2Proof.Machine.execStf offset s
  | .sth address => Sys2Proof.Machine.execSth address s
  | .drop count => Sys2Proof.Machine.execDrop count s
  | .res count => Sys2Proof.Machine.execRes count s
  | .lt => Sys2Proof.Machine.execLt s
  | .eq => Sys2Proof.Machine.execEq s
  | .br target => Sys2Proof.Machine.execBr target s
  | .brt target => Sys2Proof.Machine.execBrt target s
  | .brf target => Sys2Proof.Machine.execBrf target s
  | .add => Sys2Proof.Machine.execAdd s
  | .sub => Sys2Proof.Machine.execSub s
  | .mul => Sys2Proof.Machine.execMul s
  | .trap code => Sys2Proof.Machine.execTrap code s
  | .call target nargs => Sys2Proof.Machine.execCall target nargs s
  | .ret => Sys2Proof.Machine.execRet s
  | .halt => Sys2Proof.Machine.execHalt s

end Sys2Proof.Machine
end

