-- ==== Sys2Proof/Machine/Fetch.lean ====
section
/-! DEFINITION. The top of the loop, fetch and decode (spec/40_fetch_decode_execute.md R92, R93), and placing an instruction
where the next step fetches it. -/

namespace Sys2Proof.Machine

/-- What the top of the loop and the fetch come to (R79: exactly one of these). -/
inductive Fetched where
  /-- IP ≥ PROG_LEN: normal completion (R92) -/
  | ended
  /-- FETCH_RANGE, UNKNOWN_OPCODE, TRUNCATED_INSTRUCTION, or the model's own stop -/
  | stopped (r : Stop)
  /-- an instruction with all its operand words -/
  | decoded (i : Instr)
deriving DecidableEq, Repr

/-- Up to `n` program words from index `i` on, none at PROG_LEN or beyond (R37, R57). -/
def fetchWords : Nat → Nat → State → List Word
  | 0, _, _ => []
  | n + 1, i, s =>
    if i < s.progLen.toNat then
      match s.prog.read i with
      | some w => w :: fetchWords n (i + 1) s
      | none => []
    else []

/-- A word of the instruction is missing at program index `j`: at PROG_LEN or beyond it is TRUNCATED_INSTRUCTION (R11
`fetch_operand`); below PROG_LEN it would be a program cell never loaded, which no run reaches (log 10). -/
def missingWord (j : Int) (s : State) : Stop :=
  if j > (s.progLen.toNat : Int) - 1 then .raise .truncatedInstruction j else .model (.uninitialisedRead .prog j)

/-- The decode stage at IP, with IP in 0..PROG_LEN-1 (R93). -/
def fetchDecode (s : State) : Fetched :=
  match decode s.params.opcodeMap (fetchWords 3 (s16 s.ip).toNat s) with
  | .ok (i, _) => .decoded i
  | .error (.unknownOpcode w) => .stopped (.raise .unknownOpcode (u16 w))
  | .error (.truncated k) => .stopped (missingWord (s16 s.ip + k) s)
  | .error .noWord => .stopped (missingWord (s16 s.ip) s)

/-- The top of the loop, then fetch and decode (R92, R93). PROG_LEN is unsigned; the compare is of integers. -/
def fetch (s : State) : Fetched :=
  if s16 s.ip ≥ (s.progLen.toNat : Int) then .ended
  else if s16 s.ip < 0 then .stopped (.raise .fetchRange (s16 s.ip))
  else fetchDecode s

/-- `s` with the words `ws` in program memory at IP, within PROG_LEN, and STATUS RUNNING, so that the next step fetches
them. Where they do not fit at IP (IP negative, or past PROG_CAP) they are placed at index 0 and IP is 0. From `State.reset`
it is what a start with the program `ws` and no trace gives (`hostStart`; log 9). -/
def placeAtIp (ws : List Word) (s : State) : State :=
  let at₀ : Nat := if 0 ≤ s16 s.ip ∧ s16 s.ip + ws.length ≤ s.params.progCap then (s16 s.ip).toNat else 0
  { s with
    ip := word at₀
    prog := s.prog.writeWords at₀ ws
    progLen := BitVec.ofNat 16 (max s.progLen.toNat (at₀ + ws.length))
    status := .running }

end Sys2Proof.Machine
end

