-- ==== Sys2Proof/Machine/Trace.lean ====
section
/-! DEFINITION. The trace channel (spec/40_fetch_decode_execute.md R108 to R110): what the loop does before and after an
instruction's effects. -/

namespace Sys2Proof.Machine

/-- PreStep(ip0, op, operands) of the instruction `i` at IP (R108). -/
def preStepEvent (i : Instr) (s : State) : Event :=
  .preStep s.ip (s.params.opcodeMap.word i.opcode) i.opcode i.operands

/-- After a successful decode and before the instruction's effects: the pre-step event if TRACE_EN = 1 (R93, R108). -/
def openStep (i : Instr) (s : State) : State :=
  if s.traceEn then s.emit (preStepEvent i s) else s

/-- `[OS[0], …, OS[SP]]`; empty when SP = -1 (R109). A never-written cell is `none` (log 8). -/
def stackDump (s : State) : List (Option Word) :=
  (List.range (s16 s.sp + 1).toNat).map s.os.read

/-- After an instruction's effects: the post-step event if TRACE_EN = 1 and the instruction completed without a fault and is
not HALT (R93, R109). An instruction leaves STATUS RUNNING exactly then: HALT leaves HALTED and a fault FAULTED. -/
def postStep (t : State) : State :=
  if t.traceEn ∧ t.status = .running then t.emit (.postStep (stackDump t)) else t

/-- The end of a step. -/
def closeStep : Host.Outcome State Fault Refusal → Host.Outcome State Fault Refusal
  | .next t => .next (postStep t)
  | .fault f => .fault f
  | .refused r => .refused r

/-- Is it an event of the trace channel (R40)? -/
def Event.isTrace : Event → Bool
  | .preStep _ _ _ _ => true
  | .trapOut _ => false
  | .postStep _ => true

/-- The word of a host output event. -/
def Event.outWord : Event → Option Word
  | .preStep _ _ _ _ => none
  | .trapOut v => some v
  | .postStep _ => none

/-- The host output channel (R40): the words TRAP 1 emitted, in order. -/
def hostOutput (s : State) : List Word := s.channel.filterMap Event.outWord

/-- The trace channel (R40): the trace events, in order. -/
def traceChannel (s : State) : List Event := s.channel.filter Event.isTrace

end Sys2Proof.Machine
end

