-- ==== Sys2Proof/Machine/HostPort.lean ====
section
/-! DEFINITION. The host interface (spec/70_reset_and_hazards.md R240 to R243): the start of a run, the status read, and the
read-back of cursors and cells. The host is the environment: none of this is part of a step (R20). -/

namespace Sys2Proof.Machine

/-- STATUS's code (spec/10_state.md R28). -/
def Status.code : Status → BitVec 3
  | .idle => 0#3
  | .running => 1#3
  | .halted => 2#3
  | .ended => 3#3
  | .faulted => 4#3

/-- FAULT_CAUSE's code (spec/60_exceptions.md R211). -/
def Cause.code : Cause → BitVec 4
  | .none => 0#4
  | .unknownOpcode => 1#4
  | .unknownTrap => 2#4
  | .stackOverflow => 3#4
  | .stackUnderflow => 4#4
  | .linkOverflow => 5#4
  | .linkUnderflow => 6#4
  | .heapRange => 7#4
  | .frameRange => 8#4
  | .truncatedInstruction => 9#4
  | .fetchRange => 10#4
  | .frameImbalance => 11#4

/-- A start request: the program words, whose number is the length, and the trace selection (R240). -/
structure StartRequest where
  program : List Word
  traceEn : Bool
deriving DecidableEq, Repr

/-- The block can accept the request: it is not RUNNING (R242) and the program fits PROG_CAP (R240). -/
abbrev startAccepted (r : StartRequest) (s : State) : Prop :=
  s.status ≠ .running ∧ r.program.length ≤ s.params.progCap

/-- The start of a run (R240). A request that is not accepted changes nothing (R240, R242). OS, LS and HEAP are not written
and their contents are unspecified: no cell counts as written in the new run (R41; log 3). -/
def hostStart (r : StartRequest) (s : State) : State :=
  if startAccepted r s then
    { ip := 0#16, fp := 0xFFFF#16, sp := 0xFFFF#16, lsp := 0xFFFF#16
      os := [], ls := [], heap := []
      prog := Memory.ofWords r.program
      progLen := BitVec.ofNat 16 r.program.length
      traceEn := r.traceEn
      status := .running
      faultCause := .none, faultIp := 0#16, faultInfo := 0#32
      channel := []
      params := s.params }
  else s

/-- What a status read gives, at any time (R243): STATUS, FAULT_CAUSE, FAULT_IP, FAULT_INFO. -/
def hostReadStatus (s : State) : BitVec 3 × BitVec 4 × BitVec 16 × BitVec 32 :=
  (s.status.code, s.faultCause.code, s.faultIp, s.faultInfo)

/-- What a read-back gives. -/
inductive ReadBack where
  /-- refused: the block is RUNNING (R243, I16) -/
  | refused
  /-- the index names no cell of the space (R50); that the host gets such an answer is DESIGN CHOICE, unsafe (log 14) -/
  | noSuchCell
  /-- the cell was never written in the run: its word is unspecified (R41) -/
  | unspecified
  /-- the cell's word -/
  | value (w : Word)
deriving DecidableEq, Repr

/-- The read-back of IP, FP, SP, LSP, only when the block is not RUNNING (R243). -/
def hostReadCursors (s : State) : Option (Cursor × Cursor × Cursor × Cursor) :=
  if s.status = .running then none else some (s.ip, s.fp, s.sp, s.lsp)

/-- The read-back of one cell, only when the block is not RUNNING (R243). Which indices name a cell is
R50's (`State.bound`). DESIGN CHOICE, unsafe (log 14): an index that names none gets `noSuchCell` and no fault, where R243 is
silent and R57 lists no host read. -/
def hostReadCell (sp : Space) (i : Nat) (s : State) : ReadBack :=
  if s.status = .running then .refused
  else if i < s.bound sp then
    match (s.space sp).read i with
    | some w => .value w
    | none => .unspecified
  else .noSuchCell

/-- The integer the host prints for an output word: its signed value (spec/46_trap.md R181, D19). -/
def hostPrinted (v : Word) : Int := s16 v

end Sys2Proof.Machine
end

