-- ==== Sys2Proof/Machine/Step.lean ====
section
/-! DEFINITION. One step of the engine (spec/40_fetch_decode_execute.md R90 to R96). -/

namespace Sys2Proof.Machine

/-- One step. While STATUS = RUNNING: the top of the loop, fetch and decode, the pre-step event, the instruction, the
post-step event (R92, R93). In any other status the engine takes no step and the state stays as it is (R96, R241; log 6). -/
def step (s : State) : Host.Outcome State Fault Refusal :=
  if s.status = .running then
    match fetch s with
    | .ended => .next (s.setStatus .ended)
    | .stopped r => conclude s (.error r)
    | .decoded i => closeStep (exec i (openStep i s))
  else .next s

/-- `s` with the instruction of table bits `w` where `step` fetches its next instruction, and the block RUNNING (log 9). -/
def State.withFetchWord (s : State) (nbits w : Nat) : State := placeAtIp (tableWords nbits w) s

end Sys2Proof.Machine
end

