-- ==== Sys2Proof/Safety.lean ====
section
/-! DEFINITION. The terms the statements use: how a run ends, the invariant of every state a run reaches, and what is left of
a state when the trace is taken away. -/

namespace Sys2Proof.Machine

/-- The run has ended (spec/40_fetch_decode_execute.md R97). -/
abbrev State.terminal (s : State) : Prop := s.status = .halted ∨ s.status = .ended ∨ s.status = .faulted

/-- The run ended normally (R97). -/
abbrev State.endedNormally (s : State) : Prop := s.status = .halted ∨ s.status = .ended

/-- The linkage record at cells 3k, 3k+1, 3k+2 is one a CALL pushed (spec/47_call_return.md R191): all three cells are
written, the saved frame pointer is an anchor of this stack and the return address is no negative index (R22, R23). -/
def linkRecordOk (s : State) (k : Nat) : Prop :=
  ∃ n fp ra : Word, s.ls.read (3 * k) = some n ∧ s.ls.read (3 * k + 1) = some fp ∧ s.ls.read (3 * k + 2) = some ra ∧
    -1 ≤ fp.toInt ∧ fp.toInt ≤ (s.params.stackCap : Int) - 1 ∧ 0 ≤ ra.toInt

/-- Every listed index of a memory is below `cap`. -/
def Memory.within (m : Memory) (cap : Nat) : Prop := ∀ c ∈ m, c.1 < cap

/-- The invariant of the states the block reaches: the parameters in their ranges (R6), SP, FP and LSP in theirs (R23, R24,
R25), the linkage stack a pile of whole records (R25, R26, R39), every memory canonical and within its capacity, the program
cells below PROG_LEN exactly the loaded ones (R37), and the fault registers telling of a fault exactly in status FAULTED
(R29, R30, R215). -/
structure State.Inv (s : State) : Prop where
  params : s.params.wf
  sp_low : -1 ≤ s.sp.toInt
  sp_high : s.sp.toInt ≤ (s.params.stackCap : Int) - 1
  fp_low : -1 ≤ s.fp.toInt
  fp_high : s.fp.toInt ≤ (s.params.stackCap : Int) - 1
  link : ∃ d : Nat, s.lsp.toInt = 3 * (d : Int) - 1 ∧ 3 * d ≤ s.params.linkCap ∧ ∀ k < d, linkRecordOk s k
  os_wf : s.os.wf
  ls_wf : s.ls.wf
  heap_wf : s.heap.wf
  prog_wf : s.prog.wf
  os_within : s.os.within s.params.stackCap
  ls_within : s.ls.within s.params.linkCap
  heap_within : s.heap.within s.params.heapCap
  progLen_le : s.progLen.toNat ≤ s.params.progCap
  prog_loaded : ∀ i, (s.prog.read i).isSome ↔ i < s.progLen.toNat
  fault_idle : s.status ≠ .faulted → s.faultCause = .none ∧ s.faultIp = 0#16 ∧ s.faultInfo = 0#32
  fault_taken : s.status = .faulted → s.faultCause ≠ .none ∧ s.faultIp = s.ip

/-- The causes spec/60_exceptions.md R211 lists as raised by an instruction, outside the fetch. -/
def raisableCauses : Instr → List Cause
  | .nop => []
  | .ldi _ => [.stackOverflow]
  | .ldf _ => [.frameRange, .stackOverflow]
  | .ldh _ => [.heapRange, .stackOverflow]
  | .stf _ => [.stackUnderflow, .frameRange]
  | .sth _ => [.stackUnderflow, .heapRange]
  | .drop _ => [.stackUnderflow, .stackOverflow]
  | .res _ => [.stackUnderflow, .stackOverflow]
  | .lt => [.stackUnderflow]
  | .eq => [.stackUnderflow]
  | .br _ => []
  | .brt _ => [.stackUnderflow]
  | .brf _ => [.stackUnderflow]
  | .add => [.stackUnderflow]
  | .sub => [.stackUnderflow]
  | .mul => [.stackUnderflow]
  | .trap _ => [.unknownTrap, .stackUnderflow]
  | .call _ _ => [.linkOverflow]
  | .ret => [.linkUnderflow, .frameImbalance, .stackUnderflow, .stackOverflow]
  | .halt => []

/-- A state without its trace: TRACE_EN off and the trace events gone, the host output kept (R110). -/
def State.untraced (s : State) : State :=
  { s with traceEn := false, channel := s.channel.filter fun e => !e.isTrace }

/-- A function applied to the next state of an outcome. -/
def mapNext (f : State → State) : Host.Outcome State Fault Refusal → Host.Outcome State Fault Refusal
  | .next s => .next (f s)
  | .fault x => .fault x
  | .refused r => .refused r

end Sys2Proof.Machine
end

