-- ==== Sys2Proof/Certificates/Slice0/Obligations.lean ====
section
/-! DEFINITION. The statements for the provers. SP, FP, LSP and IP are written `s16 s.sp`, … (the cursor's signed value);
`word v` is what a cursor or a cell holds after `<- v` (spec/00_scope.md R9, R10). -/

open Sys2Proof Sys2Proof.Machine

/-! ### Encoding -/

/-- spec/30_encoding.md R70, R72, R75: under every injective OPCODE_MAP, decoding an encoded instruction followed by any words
gives the instruction and leaves those words. -/
def Obligations.DecodeInvertsEncode : Prop :=
  ∀ (m : OpcodeMap) (i : Instr) (rest : List Word), m.wf → i.wf = true →
    decode m (encode m i ++ rest) = .ok (i, rest)

/-- R71, R75: a decoded instruction's words are its encoding, so each word list has one meaning and no bit is dropped. -/
def Obligations.DecodedWordsAreTheEncoding : Prop :=
  ∀ (m : OpcodeMap) (ws rest : List Word) (i : Instr), decode m ws = .ok (i, rest) → ws = encode m i ++ rest

/-- The rows of R72's table for one instruction of each family, words written out. -/
def Obligations.TableWordsDecode : Prop :=
  decode defaultOpcodeMap [0x0000#16] = .ok (.nop, []) ∧
  decode defaultOpcodeMap [0x0001#16, 0xBEEF#16] = .ok (.ldi 0xBEEF#16, []) ∧
  decode defaultOpcodeMap [0x0004#16, 0xFFFE#16] = .ok (.stf 0xFFFE#16, []) ∧
  decode defaultOpcodeMap [0x0006#16, 0x0002#16] = .ok (.drop 0x0002#16, []) ∧
  decode defaultOpcodeMap [0x0008#16] = .ok (.lt, []) ∧
  decode defaultOpcodeMap [0x000B#16, 0x0009#16] = .ok (.brt 0x0009#16, []) ∧
  decode defaultOpcodeMap [0x000F#16] = .ok (.mul, []) ∧
  decode defaultOpcodeMap [0x0010#16, 0x0001#16] = .ok (.trap 0x0001#16, []) ∧
  decode defaultOpcodeMap [0x0011#16, 0x000A#16, 0x0002#16] = .ok (.call 0x000A#16 0x0002#16, []) ∧
  decode defaultOpcodeMap [0x0013#16] = .ok (.halt, [])

/-- R77: under the default map the illegal opcode words are 0x0014 to 0xFFFF. -/
def Obligations.IllegalWordsOfTheDefaultMap : Prop :=
  ∀ (w : Word) (rest : List Word),
    decode defaultOpcodeMap (w :: rest) = .error (.unknownOpcode w) ↔ 0x0014 ≤ w.toNat

/-- R75, R93: the length follows from the opcode alone; with fewer operand words than `ops(opcode)` the decoder names the
first one missing. -/
def Obligations.MissingOperandWordIsTruncation : Prop :=
  ∀ (m : OpcodeMap) (o : Opcode) (ws : List Word), m.wf → ws.length < o.ops →
    decode m (m.word o :: ws) = .error (.truncated (1 + ws.length))

/-! ### The loop -/

/-- spec/40_fetch_decode_execute.md R93: where the words at IP decode to `i`, a step is `exec i` between the two trace
events: PreStep before it if TRACE_EN = 1, PostStep after it if TRACE_EN = 1 and the run goes on. -/
def Obligations.StepRunsTheDecodedInstruction : Prop :=
  ∀ (s s₁ : State) (i : Instr) (rest : List Word),
    s.status = .running → 0 ≤ s16 s.ip → s16 s.ip < (s.progLen.toNat : Int) →
    decode s.params.opcodeMap (fetchWords 3 (s16 s.ip).toNat s) = .ok (i, rest) → i.wf = true →
    s₁ = { s with channel := s.channel ++
      (if s.traceEn then [Event.preStep s.ip (s.params.opcodeMap.word i.opcode) i.opcode i.operands] else []) } →
    (∀ t, exec i s₁ = .next t →
      step s = .next { t with channel := t.channel ++
        (if t.traceEn ∧ t.status = .running then [Event.postStep (stackDump t)] else []) }) ∧
    (∀ f, exec i s₁ = .fault f → step s = .fault f)

/-- R93, R37: where program memory holds `i`'s encoding at IP, wholly below PROG_LEN, the step runs `i`. -/
def Obligations.StepFetchesTheEncodedWords : Prop :=
  ∀ (s : State) (i : Instr), s.status = .running → s.params.opcodeMap.wf → i.wf = true →
    0 ≤ s16 s.ip → s16 s.ip + i.opcode.length ≤ (s.progLen.toNat : Int) →
    (∀ (k : Nat) (w : Word), (encode s.params.opcodeMap i)[k]? = some w → s.prog.read ((s16 s.ip).toNat + k) = some w) →
    step s = closeStep (exec i (openStep i s))

/-- R92, whole: IP at or above PROG_LEN ends the run with no other change; a negative IP faults FETCH_RANGE; an empty program
ends at its first step. -/
def Obligations.TopOfLoopEndsOrFaults : Prop :=
  ∀ (s : State),
    (s.status = .running → s16 s.ip ≥ (s.progLen.toNat : Int) → step s = .next { s with status := .ended }) ∧
    (s.status = .running → s16 s.ip < 0 → step s = .next (takeFault .fetchRange (s16 s.ip) s)) ∧
    (s.status ≠ .running → ∀ trace : Bool,
      step (hostStart ⟨[], trace⟩ s) = .next { hostStart ⟨[], trace⟩ s with status := .ended })

/-- R77, R93: a word at IP outside OPCODE_MAP faults UNKNOWN_OPCODE with the word as information. -/
def Obligations.UnknownOpcodeFaults : Prop :=
  ∀ (s : State) (w : Word), s.status = .running → 0 ≤ s16 s.ip → s16 s.ip < (s.progLen.toNat : Int) →
    s.prog.read (s16 s.ip).toNat = some w → (∀ o, s.params.opcodeMap.word o ≠ w) →
    step s = .next (takeFault .unknownOpcode (u16 w) s)

/-- spec/00_scope.md R11, spec/60_exceptions.md R211 code 9: an instruction whose operand words pass PROG_LEN faults
TRUNCATED_INSTRUCTION with information PROG_LEN, before any effect. -/
def Obligations.TruncatedInstructionFaults : Prop :=
  ∀ (s : State) (o : Opcode), s.status = .running → s.params.opcodeMap.wf →
    0 ≤ s16 s.ip → s16 s.ip < (s.progLen.toNat : Int) → (s.progLen.toNat : Int) < s16 s.ip + o.length →
    s.prog.read (s16 s.ip).toNat = some (s.params.opcodeMap.word o) →
    (∀ j : Nat, (s16 s.ip).toNat ≤ j → j < s.progLen.toNat → (s.prog.read j).isSome) →
    step s = .next (takeFault .truncatedInstruction (s.progLen.toNat : Int) s)

/-- R96: once the run has ended no further step changes anything. That a step of an ended block answers the same state is
the model's choice (log 6). -/
def Obligations.EndedRunsStayAsTheyAre : Prop :=
  ∀ (s : State) (k : Nat), s.terminal → Host.Core.run Sys2Proof.core k s = .next s

/-- R91: a running step's next state is not IDLE; it is ENDED exactly when IP ≥ PROG_LEN, and HALTED only where a HALT was
fetched. Where RUNNING and FAULTED arise is `RunningAndFaultedStepsHaveTheirGrounds`. -/
def Obligations.RunningStepHasOneOfFourOutcomes : Prop :=
  ∀ (s t : State), s.status = .running → step s = .next t →
    t.status ≠ .idle ∧
    (t.status = .ended ↔ s16 s.ip ≥ (s.progLen.toNat : Int)) ∧
    (t.status = .halted → s.prog.read (s16 s.ip).toNat = some (s.params.opcodeMap.word .halt))

/-- R91, spec/60_exceptions.md R211, R217: the run goes on only past an opcode other than HALT fetched in 0..PROG_LEN-1; a step
faults only by FETCH_RANGE at a negative IP, or, with IP in 0..PROG_LEN-1, by UNKNOWN_OPCODE on a word of no opcode, by
TRUNCATED_INSTRUCTION on an instruction that passes PROG_LEN, or by a cause listed for the instruction whose whole encoding
stands at IP. -/
def Obligations.RunningAndFaultedStepsHaveTheirGrounds : Prop :=
  ∀ (s t : State), s.status = .running → step s = .next t →
    (t.status = .running → 0 ≤ s16 s.ip ∧ s16 s.ip < (s.progLen.toNat : Int) ∧
      ∃ o, o ≠ .halt ∧ s.prog.read (s16 s.ip).toNat = some (s.params.opcodeMap.word o)) ∧
    (t.status = .faulted →
      (s16 s.ip < 0 ∧ t.faultCause = .fetchRange) ∨
      (0 ≤ s16 s.ip ∧ s16 s.ip < (s.progLen.toNat : Int) ∧
        ((t.faultCause = .unknownOpcode ∧
            ∃ w, s.prog.read (s16 s.ip).toNat = some w ∧ ∀ o, s.params.opcodeMap.word o ≠ w) ∨
          (t.faultCause = .truncatedInstruction ∧
            ∃ o, s.prog.read (s16 s.ip).toNat = some (s.params.opcodeMap.word o) ∧
              (s.progLen.toNat : Int) < s16 s.ip + o.length) ∨
          (∃ i, t.faultCause ∈ raisableCauses i ∧
            ∀ (k : Nat) (w : Word), (encode s.params.opcodeMap i)[k]? = some w →
              s.prog.read ((s16 s.ip).toNat + k) = some w))))

/-- spec/60_exceptions.md R216: a faulted step changed nothing but the fault registers, STATUS and possibly one pre-step
event, and FAULT_IP is the IP the step began with. -/
def Obligations.FaultsArePrecise : Prop :=
  ∀ (s t : State), s.status = .running → step s = .next t → t.status = .faulted →
    ∃ pre : List Event, (pre = [] ∨ ∃ op o ws, pre = [Event.preStep s.ip op o ws]) ∧
      t = { s with
        channel := s.channel ++ pre, faultCause := t.faultCause, faultIp := s.ip, faultInfo := t.faultInfo
        status := .faulted }

/-- R215, spec/10_state.md R31: taking a fault writes the four fault-state registers and nothing else, and FAULT_INFO's signed
value is the information whole, for every information a rule can give (-32769 to 65535). -/
def Obligations.TakingAFaultWritesItsRegisters : Prop :=
  ∀ (c : Cause) (x : Int) (s : State), -32769 ≤ x → x ≤ 65535 →
    takeFault c x s = { s with
      faultCause := c, faultIp := s.ip, faultInfo := (takeFault c x s).faultInfo, status := .faulted } ∧
    (takeFault c x s).faultInfo.toInt = x

/-- R214, R211: an instruction's body raises only the causes R211 lists for it. -/
def Obligations.OnlyListedFaultsAreRaised : Prop :=
  ∀ (i : Instr) (s t : State), s.status = .running → exec i s = .next t → t.status = .faulted →
    t.faultCause ∈ raisableCauses i

/-- spec/10_state.md R28 and spec/60_exceptions.md R211: the codes the host reads. -/
def Obligations.StatusAndCauseCodes : Prop :=
  [Status.idle, .running, .halted, .ended, .faulted].map (fun x => x.code.toNat) = [0, 1, 2, 3, 4] ∧
  [Cause.none, .unknownOpcode, .unknownTrap, .stackOverflow, .stackUnderflow, .linkOverflow, .linkUnderflow,
    .heapRange, .frameRange, .truncatedInstruction, .fetchRange, .frameImbalance].map (fun c => c.code.toNat) =
    [0, 1, 2, 3, 4, 5, 6, 7, 8, 9, 10, 11] ∧
  ∀ s : State, hostReadStatus s = (s.status.code, s.faultCause.code, s.faultIp, s.faultInfo)

/-! ### Invariants and whole-machine rules -/

/-- Every step keeps the invariant (R22 to R26, R37, R39, R215). -/
def Obligations.StepKeepsTheInvariant : Prop :=
  ∀ (s t : State), s.Inv → step s = .next t → t.Inv

/-- The invariant holds after power-up with any parameters in their ranges, the default ones among them. The power-up values
of the cursors are the model's choice (log 4). -/
def Obligations.PowerUpMeetsTheInvariant : Prop :=
  (∀ p : Params, p.wf → (State.powerUp p).Inv) ∧ State.reset.Inv

/-- A start request, accepted or not, keeps the invariant (spec/70_reset_and_hazards.md R240). -/
def Obligations.StartKeepsTheInvariant : Prop :=
  ∀ (r : StartRequest) (s : State), s.Inv → (hostStart r s).Inv

/-- spec/93_implementation_defined.md I3, I4: in a state the block reaches, the only thing that stops the model is a read of
an operand-stack or heap cell that exists and was never written; RET and fetch never make one. -/
def Obligations.ModelStopsOnlyOnUnwrittenData : Prop :=
  ∀ (s : State) (f : Fault), s.Inv → step s = .fault f →
    ∃ k : Nat,
      (f = .uninitialisedRead .os k ∧ k < s.params.stackCap ∧ s.os.read k = none) ∨
      (f = .uninitialisedRead .heap k ∧ k < s.params.heapCap ∧ s.heap.read k = none)

/-- R79, R221: every instruction has its meaning in every state: no step is refused. -/
def Obligations.NoStepIsRefused : Prop :=
  ∀ (s : State) (r : Refusal), step s ≠ .refused r

/-- spec/40_fetch_decode_execute.md R110: two runs that differ only in TRACE_EN and the trace events agree, step for step, on
everything else, the host output included; and within one step the pre-step event comes first, the trap output second and
the post-step event last. -/
def Obligations.TraceIsObservationOnly : Prop :=
  (∀ (s s' : State), s.untraced = s'.untraced → ∀ k : Nat,
    mapNext State.untraced (Host.Core.run Sys2Proof.core k s) =
      mapNext State.untraced (Host.Core.run Sys2Proof.core k s')) ∧
  (∀ (s t : State), step s = .next t →
    ∃ pre out post : List Event, t.channel = s.channel ++ (pre ++ out ++ post) ∧
      (pre = [] ∨ ∃ ip op o ws, pre = [Event.preStep ip op o ws]) ∧
      (out = [] ∨ ∃ v, out = [Event.trapOut v]) ∧
      (post = [] ∨ ∃ st, post = [Event.postStep st]))

/-- R108, R109: with TRACE_EN = 1 a step that completes an instruction other than HALT appends its PreStep, its output and
then PostStep of the stack it leaves; a HALT or a faulting step appends at most a PreStep. A never-written cell stands as
`none` in the dump, the model's choice (log 8). -/
def Obligations.TraceEventsOfAStep : Prop :=
  ∀ (s t : State), s.status = .running → s.traceEn = true → step s = .next t →
    (t.status = .running → ∃ (op : Word) (o : Opcode) (ws : List Word) (out : List Event),
      s.prog.read (s16 s.ip).toNat = some op ∧ op = s.params.opcodeMap.word o ∧ ws.length = o.ops ∧
      (∀ (k : Nat) (w : Word), ws[k]? = some w → s.prog.read ((s16 s.ip).toNat + 1 + k) = some w) ∧
      (out = [] ∨ ∃ v, out = [Event.trapOut v]) ∧
      t.channel = s.channel ++ [Event.preStep s.ip op o ws] ++ out ++
        [Event.postStep ((List.range (s16 t.sp + 1).toNat).map t.os.read)]) ∧
    (t.status = .halted → t.channel = s.channel ++ [Event.preStep s.ip (s.params.opcodeMap.word .halt) .halt []]) ∧
    (t.status = .ended → t.channel = s.channel) ∧
    (t.status = .faulted → t.channel = s.channel ∨ ∃ op o ws, t.channel = s.channel ++ [Event.preStep s.ip op o ws])

/-- spec/20_memory.md R62: through any number of steps the program memory is the one loaded; PROG_LEN, TRACE_EN and the
parameters stay too (R32, R33). -/
def Obligations.ProgramStaysAsLoaded : Prop :=
  ∀ (k : Nat) (s t : State), Host.Core.run Sys2Proof.core k s = .next t →
    t.prog = s.prog ∧ t.progLen = s.progLen ∧ t.traceEn = s.traceEn ∧ t.params = s.params

/-- R50, R23, R25, R35, R36, R223: only STH writes HEAP, only CALL writes LS, only CALL and RET write FP and LSP, only HALT
and a fault write STATUS, only TRAP 1 reaches the host output channel. -/
def Obligations.StateIsWrittenOnlyByItsInstructions : Prop :=
  ∀ (i : Instr) (s t : State), exec i s = .next t →
    ((∀ a, i ≠ .sth a) → ∀ k, t.heap.read k = s.heap.read k) ∧
    ((∀ a n, i ≠ .call a n) → ∀ k, t.ls.read k = s.ls.read k) ∧
    ((∀ a n, i ≠ .call a n) → i ≠ .ret → t.fp = s.fp ∧ t.lsp = s.lsp) ∧
    (i ≠ .halt → t.status = s.status ∨ t.status = .faulted) ∧
    (i ≠ .trap 0x0001#16 → t.channel = s.channel) ∧
    (∀ k, t.prog.read k = s.prog.read k) ∧ t.progLen = s.progLen

/-- spec/40_fetch_decode_execute.md R94: every instruction but BR, a taken BRT or BRF, CALL and RET leaves IP just after
itself. -/
def Obligations.SequentialNextIp : Prop :=
  ∀ (i : Instr) (s t : State), s.status = .running → exec i s = .next t → t.status ≠ .faulted →
    (∀ a, i ≠ .br a) → (∀ a n, i ≠ .call a n) → i ≠ .ret →
    (∀ a, i = .brt a → s.os.read (s16 s.sp).toNat ≠ some 0x0001#16) →
    (∀ a, i = .brf a → s.os.read (s16 s.sp).toNat ≠ some 0x0000#16) →
    t.ip = word (s16 s.ip + i.opcode.length)

/-- spec/10_state.md R25, R26: CALL pushes and RET pops exactly one three-word record, and nothing else moves LSP. -/
def Obligations.LinkagePointerMovesByWholeRecords : Prop :=
  ∀ (i : Instr) (s t : State), s.Inv → s.status = .running → exec i s = .next t → t.status ≠ .faulted →
    ((∃ a n, i = .call a n) → s16 t.lsp = s16 s.lsp + 3 ∧ t.fp = s.sp) ∧
    (i = .ret → s16 t.lsp = s16 s.lsp - 3) ∧
    ((∀ a n, i ≠ .call a n) → i ≠ .ret → t.lsp = s.lsp ∧ t.fp = s.fp)

/-! ### No-op, loads and stores (spec/41_noop_load_store.md) -/

/-- R120: NOP changes nothing but IP, in every state. -/
def Obligations.NopOnlyAdvances : Prop :=
  ∀ s : State, exec .nop s = .next { s with ip := word (s16 s.ip + 1) }

/-- R121: LDI pushes its raw word; on a full stack it faults STACK_OVERFLOW. -/
def Obligations.LdiPushesItsWord : Prop :=
  ∀ (v : Word) (s : State),
    (-1 ≤ s16 s.sp → s16 s.sp < (s.params.stackCap : Int) - 1 →
      exec (.ldi v) s = .next { s with
        ip := word (s16 s.ip + 2), sp := word (s16 s.sp + 1), os := s.os.write (s16 s.sp + 1).toNat v }) ∧
    (s16 s.sp ≥ (s.params.stackCap : Int) - 1 →
      exec (.ldi v) s = .next (takeFault .stackOverflow (s16 s.sp + 1) s))

/-- R122: LDF pushes the slot FP + s16(offset) + 1; out of range it faults FRAME_RANGE, on a full stack STACK_OVERFLOW, and a
never-written slot stops the model (I3). -/
def Obligations.LdfPushesTheFrameSlot : Prop :=
  ∀ (a v : Word) (s : State) (idx : Int), idx = s16 s.fp + s16 a + 1 →
    (0 ≤ idx → idx ≤ (s.params.stackCap : Int) - 1 → s.os.read idx.toNat = some v →
      -1 ≤ s16 s.sp → s16 s.sp < (s.params.stackCap : Int) - 1 →
      exec (.ldf a) s = .next { s with
        ip := word (s16 s.ip + 2), sp := word (s16 s.sp + 1), os := s.os.write (s16 s.sp + 1).toNat v }) ∧
    (idx < 0 ∨ idx > (s.params.stackCap : Int) - 1 → exec (.ldf a) s = .next (takeFault .frameRange idx s)) ∧
    (0 ≤ idx → idx ≤ (s.params.stackCap : Int) - 1 → s.os.read idx.toNat = some v →
      s16 s.sp ≥ (s.params.stackCap : Int) - 1 →
      exec (.ldf a) s = .next (takeFault .stackOverflow (s16 s.sp + 1) s)) ∧
    (0 ≤ idx → idx ≤ (s.params.stackCap : Int) - 1 → s.os.read idx.toNat = none →
      exec (.ldf a) s = .fault (.uninitialisedRead .os idx))

/-- R123: LDH pushes HEAP[s16(address)]; out of range it faults HEAP_RANGE, on a full stack STACK_OVERFLOW, and a
never-written cell stops the model (I3). -/
def Obligations.LdhPushesTheHeapCell : Prop :=
  ∀ (a v : Word) (s : State),
    (0 ≤ s16 a → s16 a ≤ (s.params.heapCap : Int) - 1 → s.heap.read (s16 a).toNat = some v →
      -1 ≤ s16 s.sp → s16 s.sp < (s.params.stackCap : Int) - 1 →
      exec (.ldh a) s = .next { s with
        ip := word (s16 s.ip + 2), sp := word (s16 s.sp + 1), os := s.os.write (s16 s.sp + 1).toNat v }) ∧
    (s16 a < 0 ∨ s16 a > (s.params.heapCap : Int) - 1 → exec (.ldh a) s = .next (takeFault .heapRange (s16 a) s)) ∧
    (0 ≤ s16 a → s16 a ≤ (s.params.heapCap : Int) - 1 → s.heap.read (s16 a).toNat = some v →
      s16 s.sp ≥ (s.params.stackCap : Int) - 1 →
      exec (.ldh a) s = .next (takeFault .stackOverflow (s16 s.sp + 1) s)) ∧
    (0 ≤ s16 a → s16 a ≤ (s.params.heapCap : Int) - 1 → s.heap.read (s16 a).toNat = none →
      exec (.ldh a) s = .fault (.uninitialisedRead .heap (s16 a)))

/-- R124: STF pops a word and writes it to the slot FP + s16(offset) + 1; the pop is checked before the slot. -/
def Obligations.StfStoresToTheFrameSlot : Prop :=
  ∀ (a v : Word) (s : State) (idx : Int), idx = s16 s.fp + s16 a + 1 →
    (0 ≤ s16 s.sp → s16 s.sp ≤ (s.params.stackCap : Int) - 1 → s.os.read (s16 s.sp).toNat = some v →
      0 ≤ idx → idx ≤ (s.params.stackCap : Int) - 1 →
      exec (.stf a) s = .next { s with
        ip := word (s16 s.ip + 2), sp := word (s16 s.sp - 1), os := s.os.write idx.toNat v }) ∧
    (0 ≤ s16 s.sp → s16 s.sp ≤ (s.params.stackCap : Int) - 1 → s.os.read (s16 s.sp).toNat = some v →
      idx < 0 ∨ idx > (s.params.stackCap : Int) - 1 → exec (.stf a) s = .next (takeFault .frameRange idx s)) ∧
    (s16 s.sp < 0 → exec (.stf a) s = .next (takeFault .stackUnderflow (s16 s.sp) s))

/-- R125: STH pops a word and writes it to HEAP[s16(address)]; the pop is checked before the address. -/
def Obligations.SthStoresToTheHeapCell : Prop :=
  ∀ (a v : Word) (s : State),
    (0 ≤ s16 s.sp → s16 s.sp ≤ (s.params.stackCap : Int) - 1 → s.os.read (s16 s.sp).toNat = some v →
      0 ≤ s16 a → s16 a ≤ (s.params.heapCap : Int) - 1 →
      exec (.sth a) s = .next { s with
        ip := word (s16 s.ip + 2), sp := word (s16 s.sp - 1), heap := s.heap.write (s16 a).toNat v }) ∧
    (0 ≤ s16 s.sp → s16 s.sp ≤ (s.params.stackCap : Int) - 1 → s.os.read (s16 s.sp).toNat = some v →
      s16 a < 0 ∨ s16 a > (s.params.heapCap : Int) - 1 →
      exec (.sth a) s = .next (takeFault .heapRange (s16 a) s)) ∧
    (s16 s.sp < 0 → exec (.sth a) s = .next (takeFault .stackUnderflow (s16 s.sp) s))

/-- The frame of the loads: the pushed cell SP + 1, SP and IP; every other cell of every space and all other state stay. -/
def Obligations.LoadsWriteOnlyThePushedCell : Prop :=
  ∀ (i : Instr) (s t : State), (∃ a, i = .ldi a ∨ i = .ldf a ∨ i = .ldh a) →
    s.status = .running → exec i s = .next t → t.status ≠ .faulted →
    t = { s with ip := t.ip, sp := word (s16 s.sp + 1), os := t.os } ∧
    ∀ k : Nat, (k : Int) ≠ s16 s.sp + 1 → t.os.read k = s.os.read k

/-- The frame of the stores: SP falls by one, and STF writes only the slot `frameIndex s a`, STH only the heap cell
`heapAddress a`. -/
def Obligations.StoresWriteOnlyTheirCell : Prop :=
  ∀ (a : Word) (s t : State), s.status = .running →
    (exec (.stf a) s = .next t → t.status ≠ .faulted →
      t = { s with ip := t.ip, sp := word (s16 s.sp - 1), os := t.os } ∧
      ∀ k : Nat, (k : Int) ≠ frameIndex s a → t.os.read k = s.os.read k) ∧
    (exec (.sth a) s = .next t → t.status ≠ .faulted →
      t = { s with ip := t.ip, sp := word (s16 s.sp - 1), heap := t.heap } ∧
      ∀ k : Nat, (k : Int) ≠ heapAddress a → t.heap.read k = s.heap.read k)

/-- spec/20_memory.md R59 on the heap: `STH a` then `LDH a` completes, gives the stored word back on top and leaves SP where
it was and every other cell of the heap and of the stack unchanged. -/
def Obligations.HeapLoadReturnsTheStoredWord : Prop :=
  ∀ (a v : Word) (s : State), s.params.wf →
    0 ≤ s16 s.sp → s16 s.sp ≤ (s.params.stackCap : Int) - 1 → s.os.read (s16 s.sp).toNat = some v →
    0 ≤ s16 a → s16 a ≤ (s.params.heapCap : Int) - 1 →
    ∃ t u, exec (.sth a) s = .next t ∧ exec (.ldh a) t = .next u ∧
      u.sp = s.sp ∧ (∀ k, u.os.read k = s.os.read k) ∧ u.heap.read (s16 a).toNat = some v ∧
      ∀ k : Nat, (k : Int) ≠ s16 a → u.heap.read k = s.heap.read k

/-- R121's property: `LDI v` then `DROP 1` returns SP to its value before the pair, and the dropped cell keeps `v`. -/
def Obligations.LdiThenDropRestoresSp : Prop :=
  ∀ (v : Word) (s : State), s.params.wf → -1 ≤ s16 s.sp → s16 s.sp < (s.params.stackCap : Int) - 1 →
    ∃ t u, exec (.ldi v) s = .next t ∧ exec (.drop 0x0001#16) t = .next u ∧
      u.sp = s.sp ∧ u.os.read (s16 s.sp + 1).toNat = some v ∧
      ∀ k : Nat, (k : Int) ≠ s16 s.sp + 1 → u.os.read k = s.os.read k

/-! ### Stack-pointer adjustment (spec/42_stack_adjust.md) -/

/-- R140: DROP lowers SP by s16(count), writes no cell, and faults when the new SP leaves -1..STACK_CAP-1. -/
def Obligations.DropLowersSp : Prop :=
  ∀ (a : Word) (s : State) (n : Int), n = s16 s.sp - s16 a →
    (-1 ≤ n → n ≤ (s.params.stackCap : Int) - 1 →
      exec (.drop a) s = .next { s with ip := word (s16 s.ip + 2), sp := word n }) ∧
    (n < -1 → exec (.drop a) s = .next (takeFault .stackUnderflow n s)) ∧
    (-1 ≤ n → n > (s.params.stackCap : Int) - 1 → exec (.drop a) s = .next (takeFault .stackOverflow n s))

/-- R141: RES raises SP by s16(count), writes no cell, and faults when the new SP leaves -1..STACK_CAP-1. -/
def Obligations.ResRaisesSp : Prop :=
  ∀ (a : Word) (s : State) (n : Int), n = s16 s.sp + s16 a →
    (-1 ≤ n → n ≤ (s.params.stackCap : Int) - 1 →
      exec (.res a) s = .next { s with ip := word (s16 s.ip + 2), sp := word n }) ∧
    (n < -1 → exec (.res a) s = .next (takeFault .stackUnderflow n s)) ∧
    (-1 ≤ n → n > (s.params.stackCap : Int) - 1 → exec (.res a) s = .next (takeFault .stackOverflow n s))

/-! ### Comparisons and arithmetic (spec/43_compare.md, spec/45_arithmetic.md) -/

/-- R150, R151: with b on top and a below it, LT leaves 1 if s16(a) < s16(b), else 0, in the cell that held a, and EQ leaves 1
if a = b, else 0. -/
def Obligations.ComparisonsPushTheirTruthWord : Prop :=
  ∀ (a b : Word) (s : State), 1 ≤ s16 s.sp → s16 s.sp ≤ (s.params.stackCap : Int) - 1 →
    s.os.read (s16 s.sp).toNat = some b → s.os.read (s16 s.sp - 1).toNat = some a →
    exec .lt s = .next { s with
      ip := word (s16 s.ip + 1), sp := word (s16 s.sp - 1)
      os := s.os.write (s16 s.sp - 1).toNat (if s16 a < s16 b then 0x0001#16 else 0x0000#16) } ∧
    exec .eq s = .next { s with
      ip := word (s16 s.ip + 1), sp := word (s16 s.sp - 1)
      os := s.os.write (s16 s.sp - 1).toNat (if a = b then 0x0001#16 else 0x0000#16) }

/-- R170, R171, R172: with b on top and a below it, ADD, SUB and MUL leave word(u16(a) op u16(b)) in the cell that held a. -/
def Obligations.ArithmeticPushesTheWrappedResult : Prop :=
  ∀ (a b : Word) (s : State), 1 ≤ s16 s.sp → s16 s.sp ≤ (s.params.stackCap : Int) - 1 →
    s.os.read (s16 s.sp).toNat = some b → s.os.read (s16 s.sp - 1).toNat = some a →
    exec .add s = .next { s with
      ip := word (s16 s.ip + 1), sp := word (s16 s.sp - 1)
      os := s.os.write (s16 s.sp - 1).toNat (word (u16 a + u16 b)) } ∧
    exec .sub s = .next { s with
      ip := word (s16 s.ip + 1), sp := word (s16 s.sp - 1)
      os := s.os.write (s16 s.sp - 1).toNat (word (u16 a - u16 b)) } ∧
    exec .mul s = .next { s with
      ip := word (s16 s.ip + 1), sp := word (s16 s.sp - 1)
      os := s.os.write (s16 s.sp - 1).toNat (word (u16 a * u16 b)) }

/-- spec/60_exceptions.md R213: with fewer than two values the five binary operations fault STACK_UNDERFLOW, at the first pop
(SP = -1) or, the top cell being written, at the second (SP = 0). -/
def Obligations.BinaryOperationsUnderflow : Prop :=
  ∀ (i : Instr) (s : State), i ∈ [Instr.lt, .eq, .add, .sub, .mul] →
    (s16 s.sp = -1 → exec i s = .next (takeFault .stackUnderflow (-1) s)) ∧
    (s16 s.sp = 0 → 1 ≤ s.params.stackCap → (s.os.read 0).isSome →
      exec i s = .next (takeFault .stackUnderflow (-1) s))

/-- The frame of the five binary operations: the cell SP - 1, SP and IP; every other cell of every space and all other state
stay, the popped top cell included (spec/10_state.md R38). -/
def Obligations.BinaryOperationsWriteOnlyTheResultCell : Prop :=
  ∀ (i : Instr) (s t : State), i ∈ [Instr.lt, .eq, .add, .sub, .mul] →
    s.status = .running → exec i s = .next t → t.status ≠ .faulted →
    t = { s with ip := t.ip, sp := word (s16 s.sp - 1), os := t.os } ∧
    ∀ k : Nat, (k : Int) ≠ s16 s.sp - 1 → t.os.read k = s.os.read k

/-- spec/45_arithmetic.md R169: the signed and the unsigned reading give the same result word, and the signed value of a sum
is the exact sum exactly when that lies in the word range. -/
def Obligations.WrappedResultsIgnoreSignedness : Prop :=
  ∀ a b : Word,
    word (s16 a + s16 b) = word (u16 a + u16 b) ∧
    word (s16 a - s16 b) = word (u16 a - u16 b) ∧
    word (s16 a * s16 b) = word (u16 a * u16 b) ∧
    (s16 (word (u16 a + u16 b)) = s16 a + s16 b ↔ -32768 ≤ s16 a + s16 b ∧ s16 a + s16 b ≤ 32767)

/-! ### Branches (spec/44_branch.md) -/

/-- R160: BR writes its target to IP and changes nothing else, in every state. -/
def Obligations.BrJumps : Prop :=
  ∀ (a : Word) (s : State), exec (.br a) s = .next { s with ip := word (s16 a) }

/-- R161, R162: BRT pops a value and is taken only on exactly 1, BRF only on exactly 0; not taken, IP is just after the
operand; on an empty stack both fault STACK_UNDERFLOW. -/
def Obligations.ConditionalBranchesPopAndTest : Prop :=
  ∀ (a v : Word) (s : State),
    (0 ≤ s16 s.sp → s16 s.sp ≤ (s.params.stackCap : Int) - 1 → s.os.read (s16 s.sp).toNat = some v →
      exec (.brt a) s = .next { s with
        ip := if v = 0x0001#16 then word (s16 a) else word (s16 s.ip + 2), sp := word (s16 s.sp - 1) } ∧
      exec (.brf a) s = .next { s with
        ip := if v = 0x0000#16 then word (s16 a) else word (s16 s.ip + 2), sp := word (s16 s.sp - 1) }) ∧
    (s16 s.sp < 0 →
      exec (.brt a) s = .next (takeFault .stackUnderflow (s16 s.sp) s) ∧
      exec (.brf a) s = .next (takeFault .stackUnderflow (s16 s.sp) s))

/-- R163: a branch does not check its target: the next step ends the run on a target at or above PROG_LEN and faults
FETCH_RANGE, with the target as FAULT_IP, on a negative one. -/
def Obligations.NextStepChecksTheBranchTarget : Prop :=
  ∀ (a : Word) (s t : State), s.status = .running → exec (.br a) s = .next t →
    (s16 a ≥ (s.progLen.toNat : Int) → step t = .next { t with status := .ended }) ∧
    (s16 a < 0 → step t = .next (takeFault .fetchRange (s16 a) t) ∧ (takeFault .fetchRange (s16 a) t).faultIp = a)

/-! ### Trap (spec/46_trap.md) -/

/-- R180, R182: TRAP 1 pops a word and appends it to the host output channel; every other code faults UNKNOWN_TRAP before the
stack is touched; TRAP 1 on an empty stack faults STACK_UNDERFLOW and emits nothing. -/
def Obligations.TrapEmitsOrFaults : Prop :=
  ∀ (c v : Word) (s : State),
    (c = 0x0001#16 → 0 ≤ s16 s.sp → s16 s.sp ≤ (s.params.stackCap : Int) - 1 →
      s.os.read (s16 s.sp).toNat = some v →
      exec (.trap c) s = .next { s with
        ip := word (s16 s.ip + 2), sp := word (s16 s.sp - 1), channel := s.channel ++ [Event.trapOut v] } ∧
      hostOutput { s with channel := s.channel ++ [Event.trapOut v] } = hostOutput s ++ [v]) ∧
    (c ≠ 0x0001#16 → exec (.trap c) s = .next (takeFault .unknownTrap (u16 c) s)) ∧
    (c = 0x0001#16 → s16 s.sp < 0 → exec (.trap c) s = .next (takeFault .stackUnderflow (s16 s.sp) s))

/-! ### Call and return (spec/47_call_return.md) -/

/-- R190: CALL pushes its record, anchors the frame at SP and jumps; with fewer than three free cells it faults
LINK_OVERFLOW. -/
def Obligations.CallPushesItsRecordAndJumps : Prop :=
  ∀ (a n : Word) (s : State),
    (-1 ≤ s16 s.lsp → s16 s.lsp + 3 ≤ (s.params.linkCap : Int) - 1 →
      exec (.call a n) s = .next { s with
        ip := word (s16 a), fp := word (s16 s.sp), lsp := word (s16 s.lsp + 3)
        ls := ((s.ls.write (s16 s.lsp + 1).toNat n).write (s16 s.lsp + 2).toNat (word (s16 s.fp))).write
          (s16 s.lsp + 3).toNat (word (s16 (word (s16 s.ip + 3)))) }) ∧
    (s16 s.lsp + 3 > (s.params.linkCap : Int) - 1 →
      exec (.call a n) s = .next (takeFault .linkOverflow (s16 s.lsp + 3) s))

/-- R191: the record's three cells, in order, LSP at the return address, and every other linkage cell as before. -/
def Obligations.CallRecordLayout : Prop :=
  ∀ (a n : Word) (s : State) (L : Int), L = s16 s.lsp → s.params.wf → -1 ≤ L → L + 3 ≤ (s.params.linkCap : Int) - 1 →
    ∃ t, exec (.call a n) s = .next t ∧
      t.ls.read (L + 1).toNat = some n ∧ t.ls.read (L + 2).toNat = some s.fp ∧
      t.ls.read (L + 3).toNat = some (word (s16 s.ip + 3)) ∧ s16 t.lsp = L + 3 ∧
      ∀ k : Nat, (k : Int) ≠ L + 1 → (k : Int) ≠ L + 2 → (k : Int) ≠ L + 3 → t.ls.read k = s.ls.read k

/-- R192: a balanced RET pops the value and the record, restores IP, FP and LSP, collapses SP by the saved count and leaves the
value on top; no other cell changes. -/
def Obligations.RetUnwindsOneFrame : Prop :=
  ∀ (rv n savedFp retIp : Word) (s : State), s.params.wf →
    2 ≤ s16 s.lsp → s16 s.lsp ≤ (s.params.linkCap : Int) - 1 →
    (s.params.retCheck = .strict → s16 s.sp = s16 s.fp + 1) →
    0 ≤ s16 s.sp → s16 s.sp ≤ (s.params.stackCap : Int) - 1 → s.os.read (s16 s.sp).toNat = some rv →
    s.ls.read (s16 s.lsp - 2).toNat = some n → s.ls.read (s16 s.lsp - 1).toNat = some savedFp →
    s.ls.read (s16 s.lsp).toNat = some retIp →
    0 ≤ s16 s.sp - s16 n → s16 s.sp - s16 n ≤ (s.params.stackCap : Int) - 1 →
    exec .ret s = .next { s with
      ip := word (s16 retIp), fp := word (s16 savedFp), lsp := word (s16 s.lsp - 3)
      sp := word (s16 s.sp - s16 n), os := s.os.write (s16 s.sp - s16 n).toNat rv }

/-- R192, R213, R212: RET's faults in their order: no record; in strict mode an unbalanced frame; an empty stack; a collapse
below empty; a collapse, by a negative count, past the capacity. -/
def Obligations.RetFaultsInOrder : Prop :=
  ∀ (s : State),
    (s16 s.lsp < 2 → exec .ret s = .next (takeFault .linkUnderflow (s16 s.lsp) s)) ∧
    (2 ≤ s16 s.lsp → s.params.retCheck = .strict → s16 s.sp ≠ s16 s.fp + 1 →
      exec .ret s = .next (takeFault .frameImbalance (s16 s.sp - s16 s.fp) s)) ∧
    (2 ≤ s16 s.lsp → (s.params.retCheck = .strict → s16 s.sp = s16 s.fp + 1) → s16 s.sp < 0 →
      exec .ret s = .next (takeFault .stackUnderflow (s16 s.sp) s)) ∧
    (∀ rv n savedFp retIp : Word, s.params.wf → 2 ≤ s16 s.lsp → s16 s.lsp ≤ (s.params.linkCap : Int) - 1 →
      (s.params.retCheck = .strict → s16 s.sp = s16 s.fp + 1) →
      0 ≤ s16 s.sp → s16 s.sp ≤ (s.params.stackCap : Int) - 1 → s.os.read (s16 s.sp).toNat = some rv →
      s.ls.read (s16 s.lsp - 2).toNat = some n → s.ls.read (s16 s.lsp - 1).toNat = some savedFp →
      s.ls.read (s16 s.lsp).toNat = some retIp →
      (s16 s.sp - s16 n < 0 →
        exec .ret s = .next (takeFault .stackUnderflow (s16 s.sp - 1 - s16 n) s)) ∧
      (s16 s.sp - s16 n > (s.params.stackCap : Int) - 1 →
        exec .ret s = .next (takeFault .stackOverflow (s16 s.sp - s16 n) s)))

/-- R195: take a caller at `c` that has pushed s16(n) ≥ 0 arguments above SP = σ and executes `CALL a, n`, leaving `c'`, and any
state `u` the callee reaches with SP = FP + 1 and that call's frame, LSP and record as `c'` has them. RET then leaves
SP = σ + 1 with the return value there, FP, LSP and IP restored: the depth is n - 1 less than before the CALL. -/
def Obligations.CallAndReturnBalanceTheStack : Prop :=
  ∀ (c c' u : State) (a n rv : Word) (σ : Int), c.params.wf →
    -1 ≤ σ → 0 ≤ s16 n → s16 c.sp = σ + s16 n → -1 ≤ s16 c.lsp → s16 c.lsp + 3 ≤ (c.params.linkCap : Int) - 1 →
    0 ≤ s16 c.ip → s16 c.ip + 3 ≤ 32767 → exec (.call a n) c = .next c' →
    u.params = c.params → u.fp = c'.fp → u.lsp = c'.lsp →
    (∀ k : Nat, s16 c.lsp < (k : Int) → (k : Int) ≤ s16 c'.lsp → u.ls.read k = c'.ls.read k) →
    s16 u.sp = s16 u.fp + 1 → s16 u.sp ≤ (u.params.stackCap : Int) - 1 → u.os.read (s16 u.sp).toNat = some rv →
    ∃ r, exec .ret u = .next r ∧
      s16 r.sp = σ + 1 ∧ s16 c.sp - s16 r.sp = s16 n - 1 ∧ r.os.read (σ + 1).toNat = some rv ∧
      r.fp = c.fp ∧ r.lsp = c.lsp ∧ s16 r.ip = s16 c.ip + 3 ∧
      ∀ k : Nat, (k : Int) ≠ σ + 1 → r.os.read k = u.os.read k

/-- R194: RET without the balance check, for a frame anchored at FP = σ + n and SP = FP + j: pop underflow, collapse
underflow, or completion with SP = σ + j and no other operand-stack cell written. -/
def Obligations.OriginalRetCollapsesFromSp : Prop :=
  ∀ (s : State) (rv n savedFp retIp : Word) (σ j : Int), s.params.wf → s.params.retCheck = .original →
    2 ≤ s16 s.lsp → s16 s.lsp ≤ (s.params.linkCap : Int) - 1 →
    s.ls.read (s16 s.lsp - 2).toNat = some n → s.ls.read (s16 s.lsp - 1).toNat = some savedFp →
    s.ls.read (s16 s.lsp).toNat = some retIp →
    -1 ≤ σ → 0 ≤ s16 n → s16 s.fp = σ + s16 n → s16 s.sp = s16 s.fp + j → j ≥ -(σ + s16 n + 1) →
    s16 s.sp ≤ (s.params.stackCap : Int) - 1 → (0 ≤ s16 s.sp → s.os.read (s16 s.sp).toNat = some rv) →
    (s16 s.sp = -1 → exec .ret s = .next (takeFault .stackUnderflow (-1) s)) ∧
    (s16 s.sp ≠ -1 → σ + j < 0 → exec .ret s = .next (takeFault .stackUnderflow (σ + j - 1) s)) ∧
    (s16 s.sp ≠ -1 → 0 ≤ σ + j → ∃ r, exec .ret s = .next r ∧
      s16 r.sp = σ + j ∧ r.os.read (σ + j).toNat = some rv ∧
      (∀ k : Nat, (k : Int) ≠ σ + j → r.os.read k = s.os.read k) ∧
      r.ip = retIp ∧ r.fp = savedFp ∧ s16 r.lsp = s16 s.lsp - 3)

/-! ### Halt (spec/48_halt.md) -/

/-- R200: HALT sets STATUS to HALTED with IP just after it and changes nothing else, in every state. -/
def Obligations.HaltEndsTheRun : Prop :=
  ∀ s : State, exec .halt s = .next { s with ip := word (s16 s.ip + 1), status := .halted }

/-! ### Host interface (spec/70_reset_and_hazards.md) -/

/-- R240, R242: an accepted start loads the program and sets every register of the new run; a request while RUNNING or longer
than PROG_CAP changes nothing. That no cell of OS, LS or HEAP counts as written is the model's reading of "unspecified"
(log 3). -/
def Obligations.StartSetsUpTheRun : Prop :=
  ∀ (r : StartRequest) (s t : State), t = hostStart r s →
    (s.status ≠ .running → r.program.length ≤ s.params.progCap → s.params.progCap ≤ 32767 →
      (∀ i, t.prog.read i = r.program[i]?) ∧ t.progLen.toNat = r.program.length ∧ t.traceEn = r.traceEn ∧
      s16 t.ip = 0 ∧ s16 t.fp = -1 ∧ s16 t.sp = -1 ∧ s16 t.lsp = -1 ∧
      t.faultCause = .none ∧ t.faultIp = 0#16 ∧ t.faultInfo = 0#32 ∧ t.channel = [] ∧ t.status = .running ∧
      t.params = s.params ∧ ∀ i, t.os.read i = none ∧ t.ls.read i = none ∧ t.heap.read i = none) ∧
    (s.status = .running ∨ r.program.length > s.params.progCap → t = s)

/-- R243, spec/20_memory.md R50: while RUNNING every read-back is refused; otherwise the cursors read back as they are, and an
index below its space's bound (PROG_LEN for PROG, the capacities for the others) gives the cell's word, or `unspecified` where
the cell was never written. That an index at or above the bound gives `noSuchCell` is the model's choice (log 14). -/
def Obligations.ReadBackOnlyWhenNotRunning : Prop :=
  ∀ s : State,
    (s.bound .prog = s.progLen.toNat ∧ s.bound .os = s.params.stackCap ∧ s.bound .ls = s.params.linkCap ∧
      s.bound .heap = s.params.heapCap) ∧
    (s.status = .running → hostReadCursors s = none ∧ ∀ sp i, hostReadCell sp i s = .refused) ∧
    (s.status ≠ .running → hostReadCursors s = some (s.ip, s.fp, s.sp, s.lsp) ∧
      ∀ (sp : Space) (i : Nat),
        (i < s.bound sp →
          (∀ w, (s.space sp).read i = some w → hostReadCell sp i s = .value w) ∧
          ((s.space sp).read i = none → hostReadCell sp i s = .unspecified)) ∧
        (s.bound sp ≤ i → hostReadCell sp i s = .noSuchCell))

/-- R241, R41: after power-up STATUS is IDLE, the fault registers are 0 and the channels empty, and no step happens before a
start. That a step of an IDLE block answers the same state is the model's choice (log 6). -/
def Obligations.PowerUpIsIdle : Prop :=
  ∀ (p : Params) (k : Nat),
    (State.powerUp p).status = .idle ∧ (State.powerUp p).faultCause = .none ∧ (State.powerUp p).faultIp = 0#16 ∧
    (State.powerUp p).faultInfo = 0#32 ∧ hostOutput (State.powerUp p) = [] ∧ traceChannel (State.powerUp p) = [] ∧
    Host.Core.run Sys2Proof.core k (State.powerUp p) = .next (State.powerUp p)
end

