-- ==== Sys2Proof/Laws/Decode.lean ====
section
/-! SUPPORT. The opcode lookup inverts an injective opcode map (spec/30_encoding.md R71, R73), and the metadata table counts
the operand words (R75). -/

namespace Sys2Proof

theorem Opcode.mem_all (o : Opcode) : o ∈ Opcode.all := by cases o <;> decide

/-- An opcode the lookup finds has the word it was looked up by. -/
theorem OpcodeMap.word_of_opcode? {m : OpcodeMap} {w : Word} {o : Opcode} (h : m.opcode? w = some o) : m.word o = w := by
  simpa using List.find?_some h

/-- The lookup finds nothing exactly when the word is not in the map's image (R77). -/
theorem OpcodeMap.opcode?_eq_none {m : OpcodeMap} {w : Word} : m.opcode? w = none ↔ ∀ o, m.word o ≠ w := by
  simp [OpcodeMap.opcode?, List.find?_eq_none, Opcode.mem_all]

/-- An injective map gives different opcodes different words. -/
theorem OpcodeMap.word_injective {m : OpcodeMap} (h : m.wf) {o p : Opcode} (e : m.word o = m.word p) : o = p :=
  List.inj_on_of_nodup_map h (Opcode.mem_all o) (Opcode.mem_all p) e

/-- The lookup of an opcode's own word finds that opcode. -/
theorem OpcodeMap.opcode?_word {m : OpcodeMap} (h : m.wf) (o : Opcode) : m.opcode? (m.word o) = some o := by
  cases e : m.opcode? (m.word o) with
  | none => exact absurd rfl (OpcodeMap.opcode?_eq_none.1 e o)
  | some p => rw [OpcodeMap.word_injective h (OpcodeMap.word_of_opcode? e)]

/-- The default map is injective. -/
theorem defaultOpcodeMap_wf : defaultOpcodeMap.wf := by decide

end Sys2Proof
end

