-- ==== Sys2Proof/Laws/Memory.lean ====
section
/-! SUPPORT. The memory laws: read after write, and that every memory operation keeps the canonical form and the bound. -/

namespace Sys2Proof.Machine

/-! ### Read after write -/

theorem Memory.read_write_self (m : Memory) (a : Nat) (v : Word) : (m.write a v).read a = some v := by
  induction m with
  | nil => simp [Memory.write, Memory.read]
  | cons c m ih =>
    obtain ⟨b, w⟩ := c
    simp only [Memory.write]
    split
    · simp [Memory.read]
    · split
      · simp [Memory.read]
      · simp only [Memory.read]; rw [if_neg ‹_›, ih]

theorem Memory.read_write_other (m : Memory) {a b : Nat} (v : Word) (h : b ≠ a) :
    (m.write a v).read b = m.read b := by
  induction m with
  | nil => simp [Memory.write, Memory.read, h]
  | cons c m ih =>
    obtain ⟨k, w⟩ := c
    simp only [Memory.write]
    split
    · simp [Memory.read, h]
    · split
      · subst a; simp [Memory.read, h]
      · simp only [Memory.read]; rw [ih]

theorem Memory.read_write (m : Memory) (a b : Nat) (v : Word) :
    (m.write a v).read b = if b = a then some v else m.read b := by
  split
  · subst b; exact m.read_write_self a v
  · exact m.read_write_other v ‹_›

/-! ### The canonical form -/

theorem Memory.mem_write {m : Memory} {a : Nat} {v : Word} {c : Nat × Word} (h : c ∈ m.write a v) :
    c = (a, v) ∨ c ∈ m := by
  induction m with
  | nil => simpa [Memory.write] using h
  | cons d m ih =>
    obtain ⟨b, w⟩ := d
    simp only [Memory.write] at h
    split at h
    · simpa using h
    · split at h
      · rcases List.mem_cons.1 h with h | h
        · exact .inl h
        · exact .inr (List.mem_cons_of_mem _ h)
      · rcases List.mem_cons.1 h with h | h
        · exact .inr (h ▸ List.mem_cons_self)
        · exact (ih h).imp id (List.mem_cons_of_mem _)

theorem Memory.wf_nil : Memory.wf [] := List.Pairwise.nil

theorem Memory.write_wf {m : Memory} (h : m.wf) (a : Nat) (v : Word) : (m.write a v).wf := by
  induction m with
  | nil => simp [Memory.write, Memory.wf]
  | cons d m ih =>
    obtain ⟨b, w⟩ := d
    obtain ⟨hd, hm⟩ := List.pairwise_cons.1 h
    simp only [Memory.write]
    split
    · rename_i hab
      refine List.pairwise_cons.2 ⟨fun c hc => ?_, h⟩
      rcases List.mem_cons.1 hc with rfl | hc
      · exact hab
      · exact lt_trans hab (hd c hc)
    · split
      · subst a; exact List.pairwise_cons.2 ⟨hd, hm⟩
      · refine List.pairwise_cons.2 ⟨fun c hc => ?_, ih hm⟩
        rcases Memory.mem_write hc with rfl | hc
        · show b < a; omega
        · exact hd c hc

theorem Memory.writeWords_wf {m : Memory} (h : m.wf) (a : Nat) (ws : List Word) : (m.writeWords a ws).wf := by
  induction ws generalizing m a with
  | nil => exact h
  | cons w ws ih => exact ih (Memory.write_wf h a w) (a + 1)

theorem Memory.ofWords_wf (ws : List Word) : (Memory.ofWords ws).wf := Memory.writeWords_wf Memory.wf_nil 0 ws

theorem State.reset_memories_wf :
    State.reset.os.wf ∧ State.reset.ls.wf ∧ State.reset.heap.wf ∧ State.reset.prog.wf :=
  ⟨Memory.wf_nil, Memory.wf_nil, Memory.wf_nil, Memory.wf_nil⟩

/-! ### The bound -/

theorem Memory.write_within {m : Memory} {cap a : Nat} (h : m.within cap) (ha : a < cap) (v : Word) :
    (m.write a v).within cap := by
  intro c hc
  rcases Memory.mem_write hc with rfl | hc
  · exact ha
  · exact h c hc

/-! ### Loading words -/

theorem Memory.read_writeWords (m : Memory) (a i : Nat) (ws : List Word) :
    (m.writeWords a ws).read i = if a ≤ i ∧ i < a + ws.length then ws[i - a]? else m.read i := by
  induction ws generalizing m a with
  | nil => simp only [Memory.writeWords, List.length_nil]; rw [if_neg (by omega)]
  | cons w ws ih =>
    simp only [Memory.writeWords, ih, Memory.read_write, List.length_cons]
    by_cases hi : a + 1 ≤ i ∧ i < a + 1 + ws.length
    · rw [if_pos hi, if_pos (by omega), show i - a = (i - (a + 1)) + 1 by omega, List.getElem?_cons_succ]
    · rw [if_neg hi]
      by_cases hia : i = a
      · subst i; simp
      · rw [if_neg hia, if_neg (by omega)]

/-- The loaded program: cell `i` holds word `i`, and no other cell is written. -/
theorem Memory.read_ofWords (ws : List Word) (i : Nat) : (Memory.ofWords ws).read i = ws[i]? := by
  rw [Memory.ofWords, Memory.read_writeWords]
  by_cases h : i < ws.length
  · rw [if_pos (by omega), Nat.sub_zero]
  · rw [if_neg (by omega), List.getElem?_eq_none (by omega)]; rfl

end Sys2Proof.Machine
end

