-- ==== Sys2Proof/Laws/State.lean ====
section
/-! SUPPORT. One lemma per field per update of `State`, so that no proof unfolds a record update. -/

namespace Sys2Proof.Machine

variable (s : State)

/-! ### setIp -/

@[simp] theorem State.setIp_ip (v : Int) : (s.setIp v).ip = word v := rfl
@[simp] theorem State.setIp_fp (v : Int) : (s.setIp v).fp = s.fp := rfl
@[simp] theorem State.setIp_sp (v : Int) : (s.setIp v).sp = s.sp := rfl
@[simp] theorem State.setIp_lsp (v : Int) : (s.setIp v).lsp = s.lsp := rfl
@[simp] theorem State.setIp_os (v : Int) : (s.setIp v).os = s.os := rfl
@[simp] theorem State.setIp_ls (v : Int) : (s.setIp v).ls = s.ls := rfl
@[simp] theorem State.setIp_heap (v : Int) : (s.setIp v).heap = s.heap := rfl
@[simp] theorem State.setIp_prog (v : Int) : (s.setIp v).prog = s.prog := rfl
@[simp] theorem State.setIp_progLen (v : Int) : (s.setIp v).progLen = s.progLen := rfl
@[simp] theorem State.setIp_traceEn (v : Int) : (s.setIp v).traceEn = s.traceEn := rfl
@[simp] theorem State.setIp_status (v : Int) : (s.setIp v).status = s.status := rfl
@[simp] theorem State.setIp_faultCause (v : Int) : (s.setIp v).faultCause = s.faultCause := rfl
@[simp] theorem State.setIp_faultIp (v : Int) : (s.setIp v).faultIp = s.faultIp := rfl
@[simp] theorem State.setIp_faultInfo (v : Int) : (s.setIp v).faultInfo = s.faultInfo := rfl
@[simp] theorem State.setIp_channel (v : Int) : (s.setIp v).channel = s.channel := rfl
@[simp] theorem State.setIp_params (v : Int) : (s.setIp v).params = s.params := rfl

/-! ### setFp -/

@[simp] theorem State.setFp_ip (v : Int) : (s.setFp v).ip = s.ip := rfl
@[simp] theorem State.setFp_fp (v : Int) : (s.setFp v).fp = word v := rfl
@[simp] theorem State.setFp_sp (v : Int) : (s.setFp v).sp = s.sp := rfl
@[simp] theorem State.setFp_lsp (v : Int) : (s.setFp v).lsp = s.lsp := rfl
@[simp] theorem State.setFp_os (v : Int) : (s.setFp v).os = s.os := rfl
@[simp] theorem State.setFp_ls (v : Int) : (s.setFp v).ls = s.ls := rfl
@[simp] theorem State.setFp_heap (v : Int) : (s.setFp v).heap = s.heap := rfl
@[simp] theorem State.setFp_prog (v : Int) : (s.setFp v).prog = s.prog := rfl
@[simp] theorem State.setFp_progLen (v : Int) : (s.setFp v).progLen = s.progLen := rfl
@[simp] theorem State.setFp_traceEn (v : Int) : (s.setFp v).traceEn = s.traceEn := rfl
@[simp] theorem State.setFp_status (v : Int) : (s.setFp v).status = s.status := rfl
@[simp] theorem State.setFp_faultCause (v : Int) : (s.setFp v).faultCause = s.faultCause := rfl
@[simp] theorem State.setFp_faultIp (v : Int) : (s.setFp v).faultIp = s.faultIp := rfl
@[simp] theorem State.setFp_faultInfo (v : Int) : (s.setFp v).faultInfo = s.faultInfo := rfl
@[simp] theorem State.setFp_channel (v : Int) : (s.setFp v).channel = s.channel := rfl
@[simp] theorem State.setFp_params (v : Int) : (s.setFp v).params = s.params := rfl

/-! ### setSp -/

@[simp] theorem State.setSp_ip (v : Int) : (s.setSp v).ip = s.ip := rfl
@[simp] theorem State.setSp_fp (v : Int) : (s.setSp v).fp = s.fp := rfl
@[simp] theorem State.setSp_sp (v : Int) : (s.setSp v).sp = word v := rfl
@[simp] theorem State.setSp_lsp (v : Int) : (s.setSp v).lsp = s.lsp := rfl
@[simp] theorem State.setSp_os (v : Int) : (s.setSp v).os = s.os := rfl
@[simp] theorem State.setSp_ls (v : Int) : (s.setSp v).ls = s.ls := rfl
@[simp] theorem State.setSp_heap (v : Int) : (s.setSp v).heap = s.heap := rfl
@[simp] theorem State.setSp_prog (v : Int) : (s.setSp v).prog = s.prog := rfl
@[simp] theorem State.setSp_progLen (v : Int) : (s.setSp v).progLen = s.progLen := rfl
@[simp] theorem State.setSp_traceEn (v : Int) : (s.setSp v).traceEn = s.traceEn := rfl
@[simp] theorem State.setSp_status (v : Int) : (s.setSp v).status = s.status := rfl
@[simp] theorem State.setSp_faultCause (v : Int) : (s.setSp v).faultCause = s.faultCause := rfl
@[simp] theorem State.setSp_faultIp (v : Int) : (s.setSp v).faultIp = s.faultIp := rfl
@[simp] theorem State.setSp_faultInfo (v : Int) : (s.setSp v).faultInfo = s.faultInfo := rfl
@[simp] theorem State.setSp_channel (v : Int) : (s.setSp v).channel = s.channel := rfl
@[simp] theorem State.setSp_params (v : Int) : (s.setSp v).params = s.params := rfl

/-! ### setLsp -/

@[simp] theorem State.setLsp_ip (v : Int) : (s.setLsp v).ip = s.ip := rfl
@[simp] theorem State.setLsp_fp (v : Int) : (s.setLsp v).fp = s.fp := rfl
@[simp] theorem State.setLsp_sp (v : Int) : (s.setLsp v).sp = s.sp := rfl
@[simp] theorem State.setLsp_lsp (v : Int) : (s.setLsp v).lsp = word v := rfl
@[simp] theorem State.setLsp_os (v : Int) : (s.setLsp v).os = s.os := rfl
@[simp] theorem State.setLsp_ls (v : Int) : (s.setLsp v).ls = s.ls := rfl
@[simp] theorem State.setLsp_heap (v : Int) : (s.setLsp v).heap = s.heap := rfl
@[simp] theorem State.setLsp_prog (v : Int) : (s.setLsp v).prog = s.prog := rfl
@[simp] theorem State.setLsp_progLen (v : Int) : (s.setLsp v).progLen = s.progLen := rfl
@[simp] theorem State.setLsp_traceEn (v : Int) : (s.setLsp v).traceEn = s.traceEn := rfl
@[simp] theorem State.setLsp_status (v : Int) : (s.setLsp v).status = s.status := rfl
@[simp] theorem State.setLsp_faultCause (v : Int) : (s.setLsp v).faultCause = s.faultCause := rfl
@[simp] theorem State.setLsp_faultIp (v : Int) : (s.setLsp v).faultIp = s.faultIp := rfl
@[simp] theorem State.setLsp_faultInfo (v : Int) : (s.setLsp v).faultInfo = s.faultInfo := rfl
@[simp] theorem State.setLsp_channel (v : Int) : (s.setLsp v).channel = s.channel := rfl
@[simp] theorem State.setLsp_params (v : Int) : (s.setLsp v).params = s.params := rfl

/-! ### setStatus -/

@[simp] theorem State.setStatus_ip (x : Status) : (s.setStatus x).ip = s.ip := rfl
@[simp] theorem State.setStatus_fp (x : Status) : (s.setStatus x).fp = s.fp := rfl
@[simp] theorem State.setStatus_sp (x : Status) : (s.setStatus x).sp = s.sp := rfl
@[simp] theorem State.setStatus_lsp (x : Status) : (s.setStatus x).lsp = s.lsp := rfl
@[simp] theorem State.setStatus_os (x : Status) : (s.setStatus x).os = s.os := rfl
@[simp] theorem State.setStatus_ls (x : Status) : (s.setStatus x).ls = s.ls := rfl
@[simp] theorem State.setStatus_heap (x : Status) : (s.setStatus x).heap = s.heap := rfl
@[simp] theorem State.setStatus_prog (x : Status) : (s.setStatus x).prog = s.prog := rfl
@[simp] theorem State.setStatus_progLen (x : Status) : (s.setStatus x).progLen = s.progLen := rfl
@[simp] theorem State.setStatus_traceEn (x : Status) : (s.setStatus x).traceEn = s.traceEn := rfl
@[simp] theorem State.setStatus_status (x : Status) : (s.setStatus x).status = x := rfl
@[simp] theorem State.setStatus_faultCause (x : Status) : (s.setStatus x).faultCause = s.faultCause := rfl
@[simp] theorem State.setStatus_faultIp (x : Status) : (s.setStatus x).faultIp = s.faultIp := rfl
@[simp] theorem State.setStatus_faultInfo (x : Status) : (s.setStatus x).faultInfo = s.faultInfo := rfl
@[simp] theorem State.setStatus_channel (x : Status) : (s.setStatus x).channel = s.channel := rfl
@[simp] theorem State.setStatus_params (x : Status) : (s.setStatus x).params = s.params := rfl

/-! ### emit -/

@[simp] theorem State.emit_ip (e : Event) : (s.emit e).ip = s.ip := rfl
@[simp] theorem State.emit_fp (e : Event) : (s.emit e).fp = s.fp := rfl
@[simp] theorem State.emit_sp (e : Event) : (s.emit e).sp = s.sp := rfl
@[simp] theorem State.emit_lsp (e : Event) : (s.emit e).lsp = s.lsp := rfl
@[simp] theorem State.emit_os (e : Event) : (s.emit e).os = s.os := rfl
@[simp] theorem State.emit_ls (e : Event) : (s.emit e).ls = s.ls := rfl
@[simp] theorem State.emit_heap (e : Event) : (s.emit e).heap = s.heap := rfl
@[simp] theorem State.emit_prog (e : Event) : (s.emit e).prog = s.prog := rfl
@[simp] theorem State.emit_progLen (e : Event) : (s.emit e).progLen = s.progLen := rfl
@[simp] theorem State.emit_traceEn (e : Event) : (s.emit e).traceEn = s.traceEn := rfl
@[simp] theorem State.emit_status (e : Event) : (s.emit e).status = s.status := rfl
@[simp] theorem State.emit_faultCause (e : Event) : (s.emit e).faultCause = s.faultCause := rfl
@[simp] theorem State.emit_faultIp (e : Event) : (s.emit e).faultIp = s.faultIp := rfl
@[simp] theorem State.emit_faultInfo (e : Event) : (s.emit e).faultInfo = s.faultInfo := rfl
@[simp] theorem State.emit_channel (e : Event) : (s.emit e).channel = s.channel ++ [e] := rfl
@[simp] theorem State.emit_params (e : Event) : (s.emit e).params = s.params := rfl

/-! ### advance -/

@[simp] theorem State.advance_ip (o : Opcode) : (s.advance o).ip = word (s16 s.ip + o.length) := rfl
@[simp] theorem State.advance_fp (o : Opcode) : (s.advance o).fp = s.fp := rfl
@[simp] theorem State.advance_sp (o : Opcode) : (s.advance o).sp = s.sp := rfl
@[simp] theorem State.advance_lsp (o : Opcode) : (s.advance o).lsp = s.lsp := rfl
@[simp] theorem State.advance_os (o : Opcode) : (s.advance o).os = s.os := rfl
@[simp] theorem State.advance_ls (o : Opcode) : (s.advance o).ls = s.ls := rfl
@[simp] theorem State.advance_heap (o : Opcode) : (s.advance o).heap = s.heap := rfl
@[simp] theorem State.advance_prog (o : Opcode) : (s.advance o).prog = s.prog := rfl
@[simp] theorem State.advance_progLen (o : Opcode) : (s.advance o).progLen = s.progLen := rfl
@[simp] theorem State.advance_traceEn (o : Opcode) : (s.advance o).traceEn = s.traceEn := rfl
@[simp] theorem State.advance_status (o : Opcode) : (s.advance o).status = s.status := rfl
@[simp] theorem State.advance_faultCause (o : Opcode) : (s.advance o).faultCause = s.faultCause := rfl
@[simp] theorem State.advance_faultIp (o : Opcode) : (s.advance o).faultIp = s.faultIp := rfl
@[simp] theorem State.advance_faultInfo (o : Opcode) : (s.advance o).faultInfo = s.faultInfo := rfl
@[simp] theorem State.advance_channel (o : Opcode) : (s.advance o).channel = s.channel := rfl
@[simp] theorem State.advance_params (o : Opcode) : (s.advance o).params = s.params := rfl

/-! ### setSpace .prog -/

@[simp] theorem State.setSpace_prog_ip (m : Memory) : (s.setSpace .prog m).ip = s.ip := rfl
@[simp] theorem State.setSpace_prog_fp (m : Memory) : (s.setSpace .prog m).fp = s.fp := rfl
@[simp] theorem State.setSpace_prog_sp (m : Memory) : (s.setSpace .prog m).sp = s.sp := rfl
@[simp] theorem State.setSpace_prog_lsp (m : Memory) : (s.setSpace .prog m).lsp = s.lsp := rfl
@[simp] theorem State.setSpace_prog_os (m : Memory) : (s.setSpace .prog m).os = s.os := rfl
@[simp] theorem State.setSpace_prog_ls (m : Memory) : (s.setSpace .prog m).ls = s.ls := rfl
@[simp] theorem State.setSpace_prog_heap (m : Memory) : (s.setSpace .prog m).heap = s.heap := rfl
@[simp] theorem State.setSpace_prog_prog (m : Memory) : (s.setSpace .prog m).prog = m := rfl
@[simp] theorem State.setSpace_prog_progLen (m : Memory) : (s.setSpace .prog m).progLen = s.progLen := rfl
@[simp] theorem State.setSpace_prog_traceEn (m : Memory) : (s.setSpace .prog m).traceEn = s.traceEn := rfl
@[simp] theorem State.setSpace_prog_status (m : Memory) : (s.setSpace .prog m).status = s.status := rfl
@[simp] theorem State.setSpace_prog_faultCause (m : Memory) : (s.setSpace .prog m).faultCause = s.faultCause := rfl
@[simp] theorem State.setSpace_prog_faultIp (m : Memory) : (s.setSpace .prog m).faultIp = s.faultIp := rfl
@[simp] theorem State.setSpace_prog_faultInfo (m : Memory) : (s.setSpace .prog m).faultInfo = s.faultInfo := rfl
@[simp] theorem State.setSpace_prog_channel (m : Memory) : (s.setSpace .prog m).channel = s.channel := rfl
@[simp] theorem State.setSpace_prog_params (m : Memory) : (s.setSpace .prog m).params = s.params := rfl

/-! ### setSpace .os -/

@[simp] theorem State.setSpace_os_ip (m : Memory) : (s.setSpace .os m).ip = s.ip := rfl
@[simp] theorem State.setSpace_os_fp (m : Memory) : (s.setSpace .os m).fp = s.fp := rfl
@[simp] theorem State.setSpace_os_sp (m : Memory) : (s.setSpace .os m).sp = s.sp := rfl
@[simp] theorem State.setSpace_os_lsp (m : Memory) : (s.setSpace .os m).lsp = s.lsp := rfl
@[simp] theorem State.setSpace_os_os (m : Memory) : (s.setSpace .os m).os = m := rfl
@[simp] theorem State.setSpace_os_ls (m : Memory) : (s.setSpace .os m).ls = s.ls := rfl
@[simp] theorem State.setSpace_os_heap (m : Memory) : (s.setSpace .os m).heap = s.heap := rfl
@[simp] theorem State.setSpace_os_prog (m : Memory) : (s.setSpace .os m).prog = s.prog := rfl
@[simp] theorem State.setSpace_os_progLen (m : Memory) : (s.setSpace .os m).progLen = s.progLen := rfl
@[simp] theorem State.setSpace_os_traceEn (m : Memory) : (s.setSpace .os m).traceEn = s.traceEn := rfl
@[simp] theorem State.setSpace_os_status (m : Memory) : (s.setSpace .os m).status = s.status := rfl
@[simp] theorem State.setSpace_os_faultCause (m : Memory) : (s.setSpace .os m).faultCause = s.faultCause := rfl
@[simp] theorem State.setSpace_os_faultIp (m : Memory) : (s.setSpace .os m).faultIp = s.faultIp := rfl
@[simp] theorem State.setSpace_os_faultInfo (m : Memory) : (s.setSpace .os m).faultInfo = s.faultInfo := rfl
@[simp] theorem State.setSpace_os_channel (m : Memory) : (s.setSpace .os m).channel = s.channel := rfl
@[simp] theorem State.setSpace_os_params (m : Memory) : (s.setSpace .os m).params = s.params := rfl

/-! ### setSpace .ls -/

@[simp] theorem State.setSpace_ls_ip (m : Memory) : (s.setSpace .ls m).ip = s.ip := rfl
@[simp] theorem State.setSpace_ls_fp (m : Memory) : (s.setSpace .ls m).fp = s.fp := rfl
@[simp] theorem State.setSpace_ls_sp (m : Memory) : (s.setSpace .ls m).sp = s.sp := rfl
@[simp] theorem State.setSpace_ls_lsp (m : Memory) : (s.setSpace .ls m).lsp = s.lsp := rfl
@[simp] theorem State.setSpace_ls_os (m : Memory) : (s.setSpace .ls m).os = s.os := rfl
@[simp] theorem State.setSpace_ls_ls (m : Memory) : (s.setSpace .ls m).ls = m := rfl
@[simp] theorem State.setSpace_ls_heap (m : Memory) : (s.setSpace .ls m).heap = s.heap := rfl
@[simp] theorem State.setSpace_ls_prog (m : Memory) : (s.setSpace .ls m).prog = s.prog := rfl
@[simp] theorem State.setSpace_ls_progLen (m : Memory) : (s.setSpace .ls m).progLen = s.progLen := rfl
@[simp] theorem State.setSpace_ls_traceEn (m : Memory) : (s.setSpace .ls m).traceEn = s.traceEn := rfl
@[simp] theorem State.setSpace_ls_status (m : Memory) : (s.setSpace .ls m).status = s.status := rfl
@[simp] theorem State.setSpace_ls_faultCause (m : Memory) : (s.setSpace .ls m).faultCause = s.faultCause := rfl
@[simp] theorem State.setSpace_ls_faultIp (m : Memory) : (s.setSpace .ls m).faultIp = s.faultIp := rfl
@[simp] theorem State.setSpace_ls_faultInfo (m : Memory) : (s.setSpace .ls m).faultInfo = s.faultInfo := rfl
@[simp] theorem State.setSpace_ls_channel (m : Memory) : (s.setSpace .ls m).channel = s.channel := rfl
@[simp] theorem State.setSpace_ls_params (m : Memory) : (s.setSpace .ls m).params = s.params := rfl

/-! ### setSpace .heap -/

@[simp] theorem State.setSpace_heap_ip (m : Memory) : (s.setSpace .heap m).ip = s.ip := rfl
@[simp] theorem State.setSpace_heap_fp (m : Memory) : (s.setSpace .heap m).fp = s.fp := rfl
@[simp] theorem State.setSpace_heap_sp (m : Memory) : (s.setSpace .heap m).sp = s.sp := rfl
@[simp] theorem State.setSpace_heap_lsp (m : Memory) : (s.setSpace .heap m).lsp = s.lsp := rfl
@[simp] theorem State.setSpace_heap_os (m : Memory) : (s.setSpace .heap m).os = s.os := rfl
@[simp] theorem State.setSpace_heap_ls (m : Memory) : (s.setSpace .heap m).ls = s.ls := rfl
@[simp] theorem State.setSpace_heap_heap (m : Memory) : (s.setSpace .heap m).heap = m := rfl
@[simp] theorem State.setSpace_heap_prog (m : Memory) : (s.setSpace .heap m).prog = s.prog := rfl
@[simp] theorem State.setSpace_heap_progLen (m : Memory) : (s.setSpace .heap m).progLen = s.progLen := rfl
@[simp] theorem State.setSpace_heap_traceEn (m : Memory) : (s.setSpace .heap m).traceEn = s.traceEn := rfl
@[simp] theorem State.setSpace_heap_status (m : Memory) : (s.setSpace .heap m).status = s.status := rfl
@[simp] theorem State.setSpace_heap_faultCause (m : Memory) : (s.setSpace .heap m).faultCause = s.faultCause := rfl
@[simp] theorem State.setSpace_heap_faultIp (m : Memory) : (s.setSpace .heap m).faultIp = s.faultIp := rfl
@[simp] theorem State.setSpace_heap_faultInfo (m : Memory) : (s.setSpace .heap m).faultInfo = s.faultInfo := rfl
@[simp] theorem State.setSpace_heap_channel (m : Memory) : (s.setSpace .heap m).channel = s.channel := rfl
@[simp] theorem State.setSpace_heap_params (m : Memory) : (s.setSpace .heap m).params = s.params := rfl

/-! ### takeFault -/

@[simp] theorem takeFault_ip (c : Cause) (x : Int) : (takeFault c x s).ip = s.ip := rfl
@[simp] theorem takeFault_fp (c : Cause) (x : Int) : (takeFault c x s).fp = s.fp := rfl
@[simp] theorem takeFault_sp (c : Cause) (x : Int) : (takeFault c x s).sp = s.sp := rfl
@[simp] theorem takeFault_lsp (c : Cause) (x : Int) : (takeFault c x s).lsp = s.lsp := rfl
@[simp] theorem takeFault_os (c : Cause) (x : Int) : (takeFault c x s).os = s.os := rfl
@[simp] theorem takeFault_ls (c : Cause) (x : Int) : (takeFault c x s).ls = s.ls := rfl
@[simp] theorem takeFault_heap (c : Cause) (x : Int) : (takeFault c x s).heap = s.heap := rfl
@[simp] theorem takeFault_prog (c : Cause) (x : Int) : (takeFault c x s).prog = s.prog := rfl
@[simp] theorem takeFault_progLen (c : Cause) (x : Int) : (takeFault c x s).progLen = s.progLen := rfl
@[simp] theorem takeFault_traceEn (c : Cause) (x : Int) : (takeFault c x s).traceEn = s.traceEn := rfl
@[simp] theorem takeFault_status (c : Cause) (x : Int) : (takeFault c x s).status = .faulted := rfl
@[simp] theorem takeFault_faultCause (c : Cause) (x : Int) : (takeFault c x s).faultCause = c := rfl
@[simp] theorem takeFault_faultIp (c : Cause) (x : Int) : (takeFault c x s).faultIp = s.ip := rfl
@[simp] theorem takeFault_faultInfo (c : Cause) (x : Int) : (takeFault c x s).faultInfo = BitVec.ofInt 32 x := rfl
@[simp] theorem takeFault_channel (c : Cause) (x : Int) : (takeFault c x s).channel = s.channel := rfl
@[simp] theorem takeFault_params (c : Cause) (x : Int) : (takeFault c x s).params = s.params := rfl

/-! ### Views -/

@[simp] theorem State.space_prog : s.space .prog = s.prog := rfl
@[simp] theorem State.space_os : s.space .os = s.os := rfl
@[simp] theorem State.space_ls : s.space .ls = s.ls := rfl
@[simp] theorem State.space_heap : s.space .heap = s.heap := rfl
@[simp] theorem State.bound_prog : s.bound .prog = s.progLen.toNat := rfl
@[simp] theorem State.bound_os : s.bound .os = s.params.stackCap := rfl
@[simp] theorem State.bound_ls : s.bound .ls = s.params.linkCap := rfl
@[simp] theorem State.bound_heap : s.bound .heap = s.params.heapCap := rfl

end Sys2Proof.Machine
end

