-- ==== Sys2Proof/Laws/Word.lean ====
section
/-! SUPPORT. The integer views of a word (spec/00_scope.md R9). -/

namespace Sys2Proof.Machine

/-- `word(s16(w)) = w` (R9). -/
theorem word_s16 (w : Word) : word (s16 w) = w := BitVec.ofInt_toInt

/-- A value in the signed range is read back as it was written. -/
theorem s16_word {v : Int} (lo : -32768 ≤ v) (hi : v ≤ 32767) : s16 (word v) = v := by
  simp only [s16, word, BitVec.toInt_ofInt]
  exact Int.bmod_eq_of_le (by omega) (by omega)

/-- The range of a signed view. -/
theorem s16_range (w : Word) : -32768 ≤ s16 w ∧ s16 w ≤ 32767 := by
  have h₁ := BitVec.le_toInt w
  have h₂ := BitVec.toInt_lt (x := w)
  simp only [s16]
  omega

end Sys2Proof.Machine
end

