-- ==== Sys2Proof/Laws/Ops.lean ====
section
/-! SUPPORT. Each shared operation's whole behaviour, said once: what it answers when it completes, and everything it can stop
with. Proofs cite these instead of unfolding the operations. -/

namespace Sys2Proof.Machine

/-! ### Except -/

theorem bind_eq_ok {ε α β : Type} {x : Except ε α} {f : α → Except ε β} {r : β} (h : (x >>= f) = .ok r) :
    ∃ a, x = .ok a ∧ f a = .ok r := by
  cases x with
  | error e => cases h
  | ok a => exact ⟨a, rfl, h⟩

theorem bind_eq_error {ε α β : Type} {x : Except ε α} {f : α → Except ε β} {e : ε} (h : (x >>= f) = .error e) :
    x = .error e ∨ ∃ a, x = .ok a ∧ f a = .error e := by
  cases x with
  | error e' => cases h; exact .inl rfl
  | ok a => exact .inr ⟨a, rfl, h⟩

@[simp] theorem ok_bind {ε α β : Type} (a : α) (f : α → Except ε β) : ((Except.ok a : Except ε α) >>= f) = f a := rfl

@[simp] theorem error_bind {ε α β : Type} (e : ε) (f : α → Except ε β) :
    ((Except.error e : Except ε α) >>= f) = .error e := rfl

@[simp] theorem pure_eq_ok {ε α : Type} (a : α) : (pure a : Except ε α) = .ok a := rfl

/-! ### Outcomes -/

@[simp] theorem conclude_ok (s t : State) : conclude s (.ok t) = .next t := rfl
@[simp] theorem conclude_raise (s : State) (c : Cause) (x : Int) :
    conclude s (.error (.raise c x)) = .next (takeFault c x s) := rfl
@[simp] theorem conclude_model (s : State) (f : Fault) : conclude s (.error (.model f)) = .fault f := rfl

/-- A body that ends in a next state either completed or raised a fault. -/
theorem conclude_next {s t : State} {r : Except Stop State} (h : conclude s r = .next t) :
    r = .ok t ∨ ∃ c x, r = .error (.raise c x) ∧ t = takeFault c x s := by
  match r, h with
  | .ok _, h => exact .inl (by rw [conclude_ok] at h; injection h with h; rw [h])
  | .error (.raise c x), h => exact .inr ⟨c, x, rfl, by rw [conclude_raise] at h; injection h with h; exact h.symm⟩

/-- A body ends in a model-level fault only by the model's own stop. -/
theorem conclude_fault {s : State} {r : Except Stop State} {f : Fault} (h : conclude s r = .fault f) :
    r = .error (.model f) := by
  match r, h with
  | .error (.model _), h => rw [conclude_model] at h; injection h with h; rw [h]

theorem conclude_ne_refused (s : State) (r : Except Stop State) (x : Refusal) : conclude s r ≠ .refused x := by
  match r with
  | .ok _ => exact fun h => by rw [conclude_ok] at h; cases h
  | .error (.raise _ _) => exact fun h => by rw [conclude_raise] at h; cases h
  | .error (.model _) => exact fun h => by rw [conclude_model] at h; cases h

/-- Every instruction's meaning is its body run from the advanced state. -/
theorem runBody_next {o : Opcode} {body : State → Except Stop State} {s t : State} (h : runBody o body s = .next t) :
    body (s.advance o) = .ok t ∨ ∃ c x, body (s.advance o) = .error (.raise c x) ∧ t = takeFault c x s :=
  conclude_next h

/-! ### Cells -/

theorem readCell_ok {sp : Space} {i : Int} {s : State} {w : Word} (h : readCell sp i s = .ok w) :
    inRange (s.bound sp) i ∧ (s.space sp).read i.toNat = some w := by
  unfold readCell at h
  split at h
  · rename_i hr
    split at h
    · rename_i hw; injection h with h; exact ⟨hr, h ▸ hw⟩
    · cases h
  · cases h

theorem readCell_eq {sp : Space} {i : Int} {s : State} {w : Word} (hr : inRange (s.bound sp) i)
    (hw : (s.space sp).read i.toNat = some w) : readCell sp i s = .ok w := by
  unfold readCell; rw [if_pos hr, hw]

theorem readCell_error {sp : Space} {i : Int} {s : State} {e : Stop} (h : readCell sp i s = .error e) :
    (inRange (s.bound sp) i ∧ (s.space sp).read i.toNat = none ∧ e = .model (.uninitialisedRead sp i)) ∨
    (¬ inRange (s.bound sp) i ∧ e = .model (.noSuchCell sp i)) := by
  unfold readCell at h
  split at h
  · rename_i hr
    split at h
    · cases h
    · rename_i hw; injection h with h; exact .inl ⟨hr, hw, h.symm⟩
  · rename_i hr; injection h with h; exact .inr ⟨hr, h.symm⟩

theorem writeCell_ok {sp : Space} {i : Int} {v : Word} {s t : State} (h : writeCell sp i v s = .ok t) :
    inRange (s.bound sp) i ∧ t = s.setSpace sp ((s.space sp).write i.toNat v) := by
  unfold writeCell at h
  split at h
  · rename_i hr; injection h with h; exact ⟨hr, h.symm⟩
  · cases h

theorem writeCell_eq {sp : Space} {i : Int} {v : Word} {s : State} (hr : inRange (s.bound sp) i) :
    writeCell sp i v s = .ok (s.setSpace sp ((s.space sp).write i.toNat v)) := by
  unfold writeCell; rw [if_pos hr]

theorem writeCell_error {sp : Space} {i : Int} {v : Word} {s : State} {e : Stop} (h : writeCell sp i v s = .error e) :
    ¬ inRange (s.bound sp) i ∧ e = .model (.noSuchCell sp i) := by
  unfold writeCell at h
  split at h
  · cases h
  · rename_i hr; injection h with h; exact ⟨hr, h.symm⟩

/-! ### Operand stack -/

theorem push_ok {v : Word} {s t : State} (h : push v s = .ok t) :
    inRange s.params.stackCap (s16 s.sp + 1) ∧
    t = { s with sp := word (s16 s.sp + 1), os := s.os.write (s16 s.sp + 1).toNat v } := by
  unfold push at h
  split at h
  · cases h
  · exact writeCell_ok h

theorem push_eq {v : Word} {s : State} (h : inRange s.params.stackCap (s16 s.sp + 1)) :
    push v s = .ok { s with sp := word (s16 s.sp + 1), os := s.os.write (s16 s.sp + 1).toNat v } := by
  unfold push
  rw [if_neg (by have := h.2; omega)]
  exact writeCell_eq h

theorem push_error {v : Word} {s : State} {e : Stop} (h : push v s = .error e) :
    (s16 s.sp + 1 > (s.params.stackCap : Int) - 1 ∧ e = .raise .stackOverflow (s16 s.sp + 1)) ∨
    (¬ inRange s.params.stackCap (s16 s.sp + 1) ∧ e = .model (.noSuchCell .os (s16 s.sp + 1))) := by
  unfold push at h
  split at h
  · rename_i hc; injection h with h; exact .inl ⟨hc, h.symm⟩
  · exact .inr (writeCell_error h)

theorem pop_ok {s t : State} {v : Word} (h : pop s = .ok (v, t)) :
    inRange s.params.stackCap (s16 s.sp) ∧ s.os.read (s16 s.sp).toNat = some v ∧
    t = { s with sp := word (s16 s.sp - 1) } := by
  unfold pop at h
  split at h
  · cases h
  · obtain ⟨a, ha, hb⟩ := bind_eq_ok h
    obtain ⟨hr, hw⟩ := readCell_ok ha
    injection hb with hb
    injection hb with h₁ h₂
    subst h₁
    exact ⟨hr, hw, h₂.symm⟩

theorem pop_eq {s : State} {v : Word} (hr : inRange s.params.stackCap (s16 s.sp))
    (hw : s.os.read (s16 s.sp).toNat = some v) : pop s = .ok (v, { s with sp := word (s16 s.sp - 1) }) := by
  unfold pop
  rw [if_neg (by have := hr.1; omega), readCell_eq (sp := .os) hr hw]
  rfl

theorem pop_error {s : State} {e : Stop} (h : pop s = .error e) :
    (s16 s.sp < 0 ∧ e = .raise .stackUnderflow (s16 s.sp)) ∨
    (inRange s.params.stackCap (s16 s.sp) ∧ s.os.read (s16 s.sp).toNat = none ∧
      e = .model (.uninitialisedRead .os (s16 s.sp))) ∨
    (¬ inRange s.params.stackCap (s16 s.sp) ∧ e = .model (.noSuchCell .os (s16 s.sp))) := by
  unfold pop at h
  split at h
  · rename_i hc; injection h with h; exact .inl ⟨hc, h.symm⟩
  · rcases bind_eq_error h with h | ⟨a, _, h⟩
    · exact .inr (readCell_error h)
    · cases h

/-- An empty stack underflows. -/
theorem pop_underflow {s : State} (h : s16 s.sp < 0) : pop s = .error (.raise .stackUnderflow (s16 s.sp)) := by
  unfold pop; rw [if_pos h]

theorem adjustSp_ok {n : Int} {s t : State} (h : adjustSp n s = .ok t) :
    -1 ≤ n ∧ n ≤ (s.params.stackCap : Int) - 1 ∧ t = { s with sp := word n } := by
  unfold adjustSp at h
  split at h
  · cases h
  · split at h
    · cases h
    · injection h with h; exact ⟨by omega, by omega, h.symm⟩

theorem adjustSp_error {n : Int} {s : State} {e : Stop} (h : adjustSp n s = .error e) :
    (n < -1 ∧ e = .raise .stackUnderflow n) ∨
    (-1 ≤ n ∧ n > (s.params.stackCap : Int) - 1 ∧ e = .raise .stackOverflow n) := by
  unfold adjustSp at h
  split at h
  · injection h with h; exact .inl ⟨‹_›, h.symm⟩
  · split at h
    · injection h with h; exact .inr ⟨by omega, ‹_›, h.symm⟩
    · cases h

/-! ### The shape of a completed binary operation -/

/-- A completed binary operation: two written cells are read, SP is one lower and the cell
that held a holds the result. -/
theorem binary_ok {f : Word → Word → Word} {s t : State} (h : binary f s = .ok t) :
    1 ≤ s16 s.sp ∧ s16 s.sp ≤ (s.params.stackCap : Int) - 1 ∧
    ∃ a b, s.os.read (s16 s.sp).toNat = some b ∧ s.os.read (s16 s.sp - 1).toNat = some a ∧
      t = { s with sp := word (s16 s.sp - 1), os := s.os.write (s16 s.sp - 1).toNat (f a b) } := by
  unfold binary at h
  obtain ⟨⟨b, s₁⟩, hb, h⟩ := bind_eq_ok h
  obtain ⟨⟨a, s₂⟩, ha, h⟩ := bind_eq_ok h
  obtain ⟨⟨l₁, u₁⟩, r₁, rfl⟩ := pop_ok hb
  have hs := s16_range s.sp
  have e₁ : s16 (word (s16 s.sp - 1)) = s16 s.sp - 1 := s16_word (by omega) (by omega)
  obtain ⟨⟨l₂, u₂⟩, r₂, rfl⟩ := pop_ok ha
  simp only [e₁] at l₂ u₂ r₂ h
  have e₂ : s16 (word (s16 s.sp - 1 - 1)) = s16 s.sp - 1 - 1 := s16_word (by omega) (by omega)
  obtain ⟨-, rfl⟩ := push_ok h
  simp only [e₂, sub_add_cancel]
  exact ⟨by omega, u₁, a, b, r₁, r₂, rfl⟩

/-- A binary operation on two written cells completes. -/
theorem binary_eq {f : Word → Word → Word} {s : State} {a b : Word}
    (lo : 1 ≤ s16 s.sp) (hi : s16 s.sp ≤ (s.params.stackCap : Int) - 1)
    (hb : s.os.read (s16 s.sp).toNat = some b) (ha : s.os.read (s16 s.sp - 1).toNat = some a) :
    binary f s = .ok { s with sp := word (s16 s.sp - 1), os := s.os.write (s16 s.sp - 1).toNat (f a b) } := by
  have hs := s16_range s.sp
  have e₁ : s16 (word (s16 s.sp - 1)) = s16 s.sp - 1 := s16_word (by omega) (by omega)
  have e₂ : s16 (word (s16 s.sp - 1 - 1)) = s16 s.sp - 1 - 1 := s16_word (by omega) (by omega)
  unfold binary
  rw [pop_eq ⟨by omega, hi⟩ hb, ok_bind]
  show (pop { s with sp := word (s16 s.sp - 1) } >>= _) = _
  rw [pop_eq (s := { s with sp := word (s16 s.sp - 1) }) (v := a) (by simp only [e₁]; exact ⟨by omega, by omega⟩)
    (by simp only [e₁]; exact ha), ok_bind]
  simp only [e₁]
  show push (f a b) { s with sp := word (s16 s.sp - 1 - 1) } = _
  rw [push_eq (s := { s with sp := word (s16 s.sp - 1 - 1) }) (by simp only [e₂]; exact ⟨by omega, by omega⟩)]
  simp only [e₂, sub_add_cancel]

end Sys2Proof.Machine
end

