-- ==== Sys2Proof/Laws/Exec.lean ====
section
/-! SUPPORT. Every meaning has one shape: the instruction's own pseudocode run from the advanced state, concluded from the
state the step began in. What each pseudocode answers when it completes is said once, per instruction. -/

namespace Sys2Proof.Machine

/-- The pseudocode of an instruction after its operand fetches. -/
def bodyOf : Instr → State → Except Stop State
  | .nop => fun s => .ok s
  | .ldi value => push value
  | .ldf offset => ldfBody offset
  | .ldh address => ldhBody address
  | .stf offset => stfBody offset
  | .sth address => sthBody address
  | .drop count => fun s => adjustSp (s16 s.sp - countOf count) s
  | .res count => fun s => adjustSp (s16 s.sp + countOf count) s
  | .lt => binary fun a b => truthWord (lessThan a b)
  | .eq => binary fun a b => truthWord (wordsEqual a b)
  | .br target => fun s => .ok (s.setIp (targetOf target))
  | .brt target => popBranch isTrueWord target
  | .brf target => popBranch isFalseWord target
  | .add => binary fun a b => word (u16 a + u16 b)
  | .sub => binary fun a b => word (u16 a - u16 b)
  | .mul => binary fun a b => word (u16 a * u16 b)
  | .trap code => trapBody code
  | .call target nargs => callBody target nargs
  | .ret => retBody
  | .halt => fun s => .ok (s.setStatus .halted)

/-- A meaning is its body, run from the advanced state and concluded from the state before. -/
theorem exec_eq_runBody (i : Instr) (s : State) : exec i s = runBody i.opcode (bodyOf i) s := by
  cases i <;> rfl

/-- A next state of `exec` is a completed body or a taken fault. -/
theorem exec_next {i : Instr} {s t : State} (h : exec i s = .next t) :
    bodyOf i (s.advance i.opcode) = .ok t ∨
    ∃ c x, bodyOf i (s.advance i.opcode) = .error (.raise c x) ∧ t = takeFault c x s :=
  runBody_next (exec_eq_runBody i s ▸ h)

/-- A next state of `exec` that is not FAULTED is a completed body. -/
theorem exec_completed {i : Instr} {s t : State} (h : exec i s = .next t) (ht : t.status ≠ .faulted) :
    bodyOf i (s.advance i.opcode) = .ok t := by
  rcases exec_next h with h | ⟨c, x, -, rfl⟩
  · exact h
  · exact absurd rfl ht

/-! ### Completed bodies -/

variable {s t : State}

theorem ldfBody_ok {a : Word} (h : ldfBody a s = .ok t) :
    inRange s.params.stackCap (frameIndex s a) ∧ inRange s.params.stackCap (s16 s.sp + 1) ∧
    ∃ v, s.os.read (frameIndex s a).toNat = some v ∧
      t = { s with sp := word (s16 s.sp + 1), os := s.os.write (s16 s.sp + 1).toNat v } := by
  unfold ldfBody at h
  split at h
  · obtain ⟨v, hv, h⟩ := bind_eq_ok h
    obtain ⟨hp, rfl⟩ := push_ok h
    exact ⟨‹_›, hp, v, (readCell_ok hv).2, rfl⟩
  · cases h

theorem ldhBody_ok {a : Word} (h : ldhBody a s = .ok t) :
    inRange s.params.heapCap (heapAddress a) ∧ inRange s.params.stackCap (s16 s.sp + 1) ∧
    ∃ v, s.heap.read (heapAddress a).toNat = some v ∧
      t = { s with sp := word (s16 s.sp + 1), os := s.os.write (s16 s.sp + 1).toNat v } := by
  unfold ldhBody at h
  split at h
  · obtain ⟨v, hv, h⟩ := bind_eq_ok h
    obtain ⟨hp, rfl⟩ := push_ok h
    exact ⟨‹_›, hp, v, (readCell_ok hv).2, rfl⟩
  · cases h

theorem stfBody_ok {a : Word} (h : stfBody a s = .ok t) :
    inRange s.params.stackCap (s16 s.sp) ∧ inRange s.params.stackCap (frameIndex s a) ∧
    ∃ v, s.os.read (s16 s.sp).toNat = some v ∧
      t = { s with sp := word (s16 s.sp - 1), os := s.os.write (frameIndex s a).toNat v } := by
  unfold stfBody at h
  obtain ⟨⟨v, s₁⟩, hv, h⟩ := bind_eq_ok h
  obtain ⟨hr, hw, rfl⟩ := pop_ok hv
  simp only at h
  split at h
  · obtain ⟨-, rfl⟩ := writeCell_ok h
    exact ⟨hr, ‹_›, v, hw, rfl⟩
  · cases h

theorem sthBody_ok {a : Word} (h : sthBody a s = .ok t) :
    inRange s.params.stackCap (s16 s.sp) ∧ inRange s.params.heapCap (heapAddress a) ∧
    ∃ v, s.os.read (s16 s.sp).toNat = some v ∧
      t = { s with sp := word (s16 s.sp - 1), heap := s.heap.write (heapAddress a).toNat v } := by
  unfold sthBody at h
  obtain ⟨⟨v, s₁⟩, hv, h⟩ := bind_eq_ok h
  obtain ⟨hr, hw, rfl⟩ := pop_ok hv
  simp only at h
  split at h
  · obtain ⟨-, rfl⟩ := writeCell_ok h
    exact ⟨hr, ‹_›, v, hw, rfl⟩
  · cases h

theorem popBranch_ok {f : Word → Bool} {a : Word} (h : popBranch f a s = .ok t) :
    inRange s.params.stackCap (s16 s.sp) ∧
    ∃ v, s.os.read (s16 s.sp).toNat = some v ∧
      t = { s with ip := if f v then word (targetOf a) else s.ip, sp := word (s16 s.sp - 1) } := by
  unfold popBranch at h
  obtain ⟨⟨v, s₁⟩, hv, h⟩ := bind_eq_ok h
  obtain ⟨hr, hw, rfl⟩ := pop_ok hv
  refine ⟨hr, v, hw, ?_⟩
  simp only [pure_eq_ok] at h
  injection h with h
  rw [← h]
  split <;> rfl

theorem trapBody_ok {c : Word} (h : trapBody c s = .ok t) :
    c = 0x0001#16 ∧ inRange s.params.stackCap (s16 s.sp) ∧
    ∃ v, s.os.read (s16 s.sp).toNat = some v ∧
      t = { s with sp := word (s16 s.sp - 1), channel := s.channel ++ [.trapOut v] } := by
  unfold trapBody at h
  split at h
  · cases h
  · rename_i hc
    obtain ⟨⟨v, s₁⟩, hv, h⟩ := bind_eq_ok h
    obtain ⟨hr, hw, rfl⟩ := pop_ok hv
    injection h with h
    exact ⟨not_not.1 hc, hr, v, hw, h.symm⟩

theorem callBody_ok {a n : Word} (h : callBody a n s = .ok t) :
    -1 ≤ s16 s.lsp ∧ s16 s.lsp + 3 ≤ (s.params.linkCap : Int) - 1 ∧
    t = { s with
      ip := word (targetOf a), fp := word (s16 s.sp), lsp := word (s16 s.lsp + 3)
      ls := ((s.ls.write (s16 s.lsp + 1).toNat n).write (s16 s.lsp + 2).toNat (word (s16 s.fp))).write
        (s16 s.lsp + 3).toNat (word (s16 s.ip)) } := by
  unfold callBody at h
  split at h
  · cases h
  · obtain ⟨s₁, h₁, h⟩ := bind_eq_ok h
    obtain ⟨s₂, h₂, h⟩ := bind_eq_ok h
    obtain ⟨s₃, h₃, h⟩ := bind_eq_ok h
    obtain ⟨r₁, rfl⟩ := writeCell_ok h₁
    obtain ⟨-, rfl⟩ := writeCell_ok h₂
    obtain ⟨-, rfl⟩ := writeCell_ok h₃
    injection h with h
    exact ⟨by have := r₁.1; omega, by omega, h.symm⟩

theorem retBody_ok (cap : s.params.stackCap ≤ 32767) (h : retBody s = .ok t) :
    2 ≤ s16 s.lsp ∧ s16 s.lsp ≤ (s.params.linkCap : Int) - 1 ∧ ¬ imbalanced s ∧ inRange s.params.stackCap (s16 s.sp) ∧
    ∃ rv retIp savedFp n, s.os.read (s16 s.sp).toNat = some rv ∧ s.ls.read (s16 s.lsp).toNat = some retIp ∧
      s.ls.read (s16 s.lsp - 1).toNat = some savedFp ∧ s.ls.read (s16 s.lsp - 2).toNat = some n ∧
      inRange s.params.stackCap (s16 s.sp - s16 n) ∧
      t = { s with
        ip := word (s16 retIp), fp := word (s16 savedFp), lsp := word (s16 s.lsp - 3)
        sp := word (s16 s.sp - s16 n), os := s.os.write (s16 s.sp - s16 n).toNat rv } := by
  unfold retBody at h
  split at h
  · cases h
  split at h
  · cases h
  rename_i hl hb
  obtain ⟨⟨rv, s₁⟩, hp, h⟩ := bind_eq_ok h
  obtain ⟨hr, hw, rfl⟩ := pop_ok hp
  obtain ⟨retIp, h₁, h⟩ := bind_eq_ok h
  obtain ⟨savedFp, h₂, h⟩ := bind_eq_ok h
  obtain ⟨n, h₃, h⟩ := bind_eq_ok h
  have e : s16 (word (s16 s.sp - 1)) = s16 s.sp - 1 := s16_word (by have := hr.1; omega) (by have := hr.2; omega)
  simp only [e, countOf] at h
  unfold collapse at h
  split at h
  · cases h
  split at h
  · cases h
  rename_i h₄ h₅
  obtain ⟨hq, rfl⟩ := push_ok h
  have h₅' : ¬ (s16 s.sp - 1 - s16 n > (s.params.stackCap : Int) - 2) := h₅
  have e₂ : s16 (word (s16 s.sp - 1 - s16 n)) = s16 s.sp - 1 - s16 n := s16_word (by omega) (by omega)
  refine ⟨by omega, (readCell_ok h₁).1.2, hb, hr, rv, retIp, savedFp, n, hw, (readCell_ok h₁).2, (readCell_ok h₂).2,
    (readCell_ok h₃).2, ⟨by omega, by omega⟩, ?_⟩
  simp only [State.setSp, e₂, show s16 s.sp - 1 - s16 n + 1 = s16 s.sp - s16 n by omega]
  rfl

end Sys2Proof.Machine
end

