-- ==== Sys2Proof/Laws/PerInstr.lean ====
section
/-! SUPPORT. The per-instruction family `EncodedLength`: an instruction's encoding has `1 + ops(opcode)` words, under every
opcode map (spec/30_encoding.md R75). -/

namespace Sys2Proof.Laws.EncodedLength

/-- The encoding of `i` has the length its opcode alone gives (R75). -/
def Statement (i : Instr) : Prop := ∀ m : OpcodeMap, (encode m i).length = i.opcode.length

theorem nop : Statement .nop := fun _ => rfl
theorem ldi (value : Word) : Statement (.ldi value) := fun _ => rfl
theorem ldf (offset : Word) : Statement (.ldf offset) := fun _ => rfl
theorem ldh (address : Word) : Statement (.ldh address) := fun _ => rfl
theorem stf (offset : Word) : Statement (.stf offset) := fun _ => rfl
theorem sth (address : Word) : Statement (.sth address) := fun _ => rfl
theorem drop (count : Word) : Statement (.drop count) := fun _ => rfl
theorem res (count : Word) : Statement (.res count) := fun _ => rfl
theorem lt : Statement .lt := fun _ => rfl
theorem eq : Statement .eq := fun _ => rfl
theorem br (target : Word) : Statement (.br target) := fun _ => rfl
theorem brt (target : Word) : Statement (.brt target) := fun _ => rfl
theorem brf (target : Word) : Statement (.brf target) := fun _ => rfl
theorem add : Statement .add := fun _ => rfl
theorem sub : Statement .sub := fun _ => rfl
theorem mul : Statement .mul := fun _ => rfl
theorem trap (code : Word) : Statement (.trap code) := fun _ => rfl
theorem call (target nargs : Word) : Statement (.call target nargs) := fun _ => rfl
theorem ret : Statement .ret := fun _ => rfl
theorem halt : Statement .halt := fun _ => rfl

end Sys2Proof.Laws.EncodedLength
end

