-- ==== Sys2Proof/Tests/Slice0.lean ====
section
/-! SUPPORT. Tests. The expected results are those of spec/95_test_vectors.md (the vector's id stands at each test) and of the
table of spec/30_encoding.md R72, never the model's own answers. After them, for every statement with hypotheses, a theorem
`witness_<Name>` giving a state and operands that meet them, clause by clause. -/

open Sys2Proof Sys2Proof.Machine

namespace Sys2Proof.Tests

/-! ### Helpers -/

/-- A RUNNING state as section 2 of the vectors starts it: the program `ws` at index 0, IP 0, and the given cursors and
cells (cell 0 first). -/
def vec (ws : List Word) (sp : Int) (os : List Word) (fp : Int) (lsp : Int) (ls : List Word) (heap : List Word) : State :=
  { State.powerUp defaultParams with
    sp := word sp, fp := word fp, lsp := word lsp
    os := Memory.ofWords os, ls := Memory.ofWords ls, heap := Memory.ofWords heap
    prog := Memory.ofWords ws, progLen := BitVec.ofNat 16 ws.length, status := .running }

/-- Most vectors: FP = LSP = -1, no linkage record, an empty heap. -/
def base (ws : List Word) (sp : Int) (os : List Word) : State := vec ws sp os (-1) (-1) [] []

/-- The same state with other capacities. -/
def withCaps (stackCap linkCap heapCap : Nat) (s : State) : State :=
  { s with params := { s.params with stackCap := stackCap, linkCap := linkCap, heapCap := heapCap } }

/-- The same state with RET_CHECK = original. -/
def original (s : State) : State := { s with params := { s.params with retCheck := .original } }

/-- The state after one step, if there is one. -/
def after (s : State) : Option State :=
  match step s with
  | .next t => some t
  | .fault _ => none
  | .refused _ => none

/-- The model's own stop, if the step ends in one. -/
def stop (s : State) : Option Fault :=
  match step s with
  | .next _ => none
  | .fault f => some f
  | .refused _ => none

/-- The state every faulting vector ends in: only the fault registers and STATUS differ. -/
def faulted (c : Cause) (info : BitVec 32) (s : State) : Option State :=
  some { s with faultCause := c, faultIp := s.ip, faultInfo := info, status := .faulted }

/-- Is the answer of a meaning a next state? -/
def isNext : Host.Outcome State Fault Refusal → Bool
  | .next _ => true
  | .fault _ => false
  | .refused _ => false

/-! ### Decoding: every row of R72's table, its words written out, a following word left over -/

theorem test_decode_noop_load_store :
    (decode defaultOpcodeMap [0x0000#16, 7#16] = .ok (.nop, [7#16])) ∧
    (decode defaultOpcodeMap [0x0001#16, 0xBEEF#16, 7#16] = .ok (.ldi 0xBEEF#16, [7#16])) ∧
    (decode defaultOpcodeMap [0x0002#16, 0xFFFF#16, 7#16] = .ok (.ldf 0xFFFF#16, [7#16])) ∧
    (decode defaultOpcodeMap [0x0003#16, 0x8000#16, 7#16] = .ok (.ldh 0x8000#16, [7#16])) ∧
    (decode defaultOpcodeMap [0x0004#16, 0xFFFE#16, 7#16] = .ok (.stf 0xFFFE#16, [7#16])) ∧
    (decode defaultOpcodeMap [0x0005#16, 0x0002#16, 7#16] = .ok (.sth 0x0002#16, [7#16])) :=
  ⟨rfl, rfl, rfl, rfl, rfl, rfl⟩

theorem test_decode_stack_and_compare :
    (decode defaultOpcodeMap [0x0006#16, 0x0002#16] = .ok (.drop 0x0002#16, [])) ∧
    (decode defaultOpcodeMap [0x0007#16, 0x0003#16] = .ok (.res 0x0003#16, [])) ∧
    (decode defaultOpcodeMap [0x0008#16, 7#16] = .ok (.lt, [7#16])) ∧
    (decode defaultOpcodeMap [0x0009#16, 7#16] = .ok (.eq, [7#16])) := ⟨rfl, rfl, rfl, rfl⟩

theorem test_decode_branch_and_arithmetic :
    (decode defaultOpcodeMap [0x000A#16, 0x0064#16] = .ok (.br 0x0064#16, [])) ∧
    (decode defaultOpcodeMap [0x000B#16, 0x0009#16] = .ok (.brt 0x0009#16, [])) ∧
    (decode defaultOpcodeMap [0x000C#16, 0xFFFF#16] = .ok (.brf 0xFFFF#16, [])) ∧
    (decode defaultOpcodeMap [0x000D#16, 7#16] = .ok (.add, [7#16])) ∧
    (decode defaultOpcodeMap [0x000E#16, 7#16] = .ok (.sub, [7#16])) ∧
    (decode defaultOpcodeMap [0x000F#16, 7#16] = .ok (.mul, [7#16])) := ⟨rfl, rfl, rfl, rfl, rfl, rfl⟩

theorem test_decode_trap_call_halt :
    (decode defaultOpcodeMap [0x0010#16, 0x0001#16] = .ok (.trap 0x0001#16, [])) ∧
    (decode defaultOpcodeMap [0x0011#16, 0x000A#16, 0x0002#16, 7#16] = .ok (.call 0x000A#16 0x0002#16, [7#16])) ∧
    (decode defaultOpcodeMap [0x0012#16, 7#16] = .ok (.ret, [7#16])) ∧
    (decode defaultOpcodeMap [0x0013#16, 7#16] = .ok (.halt, [7#16])) := ⟨rfl, rfl, rfl, rfl⟩

/-- LP4, LP5, R77: the first and the last illegal word of the default map. -/
theorem test_decode_illegal :
    (decode defaultOpcodeMap [0x0014#16, 0#16] = .error (.unknownOpcode 0x0014#16)) ∧
    (decode defaultOpcodeMap [0xFFFF#16] = .error (.unknownOpcode 0xFFFF#16)) := ⟨rfl, rfl⟩

/-- LP2, LP3: the missing operand word is named. -/
theorem test_decode_truncated :
    (decode defaultOpcodeMap [0x0001#16] = .error (.truncated 1)) ∧
    (decode defaultOpcodeMap [0x0011#16, 0x0005#16] = .error (.truncated 2)) ∧
    (decode defaultOpcodeMap [] = .error .noWord) := ⟨rfl, rfl, rfl⟩

/-- The numbering of spec/opcode_table.json: the first word in bits 15..0, the second in 31..16, the third in 47..32. -/
theorem test_decode_table_words :
    (decodeTableWord 16 0x0013 = some .halt) ∧
    (decodeTableWord 32 0xBEEF0001 = some (.ldi 0xBEEF#16)) ∧
    (decodeTableWord 48 0x0002000A0011 = some (.call 0x000A#16 0x0002#16)) ∧
    (decodeTableWord 16 0x0014 = none) := by decide

/-! ### Well-formedness: an ill-formed term for each check, and the edges that are well formed -/

theorem test_wf_refuses_stack_cap_zero : ¬ ({ defaultParams with stackCap := 0 } : Params).wf := by decide
theorem test_wf_refuses_stack_cap_large : ¬ ({ defaultParams with stackCap := 32768 } : Params).wf := by decide
theorem test_wf_refuses_link_cap_large : ¬ ({ defaultParams with linkCap := 32768 } : Params).wf := by decide
theorem test_wf_refuses_heap_cap_large : ¬ ({ defaultParams with heapCap := 32768 } : Params).wf := by decide
theorem test_wf_refuses_prog_cap_large : ¬ ({ defaultParams with progCap := 32768 } : Params).wf := by decide
theorem test_wf_refuses_map_with_a_clash : ¬ ({ defaultOpcodeMap with halt := 0x0000#16 } : OpcodeMap).wf := by decide
theorem test_wf_accepts_the_edges :
    ({ defaultParams with stackCap := 1, linkCap := 0, heapCap := 0, progCap := 0 } : Params).wf ∧
    ({ defaultParams with stackCap := 32767, linkCap := 32767, heapCap := 32767 } : Params).wf := by decide

/-- R77: every operand word is legal, so no instruction is ill formed. -/
theorem test_wf_every_instruction (i : Instr) : i.wf = true := by cases i <;> rfl

/-! ### One step per test -/

/-- LP1: an empty program. -/
theorem test_empty_program_ends : after (base [] (-1) []) = some { base [] (-1) [] with status := .ended } := by decide

/-- LP3 -/
theorem test_truncated_call :
    after (base [0x0011#16, 0x0005#16] (-1) []) =
      faulted .truncatedInstruction 2#32 (base [0x0011#16, 0x0005#16] (-1) []) := by decide

/-- LP5 -/
theorem test_unknown_opcode :
    after (base [0xFFFF#16] (-1) []) = faulted .unknownOpcode 65535#32 (base [0xFFFF#16] (-1) []) := by decide

/-- LP7, step 2 -/
theorem test_fetch_range :
    after { base [0x000A#16, 0xFFFF#16] (-1) [] with ip := 0xFFFF#16 } =
      faulted .fetchRange 0xFFFFFFFF#32 { base [0x000A#16, 0xFFFF#16] (-1) [] with ip := 0xFFFF#16 } := by decide

/-- NL1 -/
theorem test_nop :
    after (base [0x0000#16] 2 [4#16, 5#16, 6#16]) =
      some { base [0x0000#16] 2 [4#16, 5#16, 6#16] with ip := 1#16 } := by decide

/-- NL3 -/
theorem test_ldi :
    after (base [0x0001#16, 0x8000#16] (-1) []) =
      some { base [0x0001#16, 0x8000#16] (-1) [] with ip := 2#16, sp := 0#16, os := [(0, 0x8000#16)] } := by decide

/-- NL4 -/
theorem test_ldi_overflow :
    after (withCaps 4 64 16 (base [0x0001#16, 0x0001#16] 3 [])) =
      faulted .stackOverflow 4#32 (withCaps 4 64 16 (base [0x0001#16, 0x0001#16] 3 [])) := by decide

/-- NL9 -/
theorem test_ldf :
    after (vec [0x0002#16, 0xFFFE#16] 2 [3#16, 4#16, 4#16] 1 (-1) [] []) =
      some { vec [0x0002#16, 0xFFFE#16] 2 [3#16, 4#16, 4#16] 1 (-1) [] [] with
        ip := 2#16, sp := 3#16, os := [(0, 3#16), (1, 4#16), (2, 4#16), (3, 3#16)] } := by decide

/-- NL10: the model's own stop on a never-written cell. -/
theorem test_ldf_never_written :
    stop (base [0x0002#16, 0x0002#16] 1 [7#16, 9#16]) = some (.uninitialisedRead .os 2) := by decide

/-- NL15 -/
theorem test_ldh :
    after (withCaps 64 64 4 (vec [0x0003#16, 0x0003#16] (-1) [] (-1) (-1) [] [1#16, 2#16, 3#16, 0x1234#16])) =
      some { withCaps 64 64 4 (vec [0x0003#16, 0x0003#16] (-1) [] (-1) (-1) [] [1#16, 2#16, 3#16, 0x1234#16]) with
        ip := 2#16, sp := 0#16, os := [(0, 0x1234#16)] } := by decide

/-- NL18 -/
theorem test_ldh_negative :
    after (base [0x0003#16, 0x8000#16] (-1) []) =
      faulted .heapRange 0xFFFF8000#32 (base [0x0003#16, 0x8000#16] (-1) []) := by decide

/-- NL11 -/
theorem test_stf :
    after (base [0x0004#16, 0x0000#16] 1 [7#16, 9#16]) =
      some { base [0x0004#16, 0x0000#16] 1 [7#16, 9#16] with
        ip := 2#16, sp := 0#16, os := [(0, 9#16), (1, 9#16)] } := by decide

/-- NL14: the pop is undone. -/
theorem test_stf_range :
    after (base [0x0004#16, 0xFFFE#16] 1 [7#16, 9#16]) =
      faulted .frameRange 0xFFFFFFFE#32 (base [0x0004#16, 0xFFFE#16] 1 [7#16, 9#16]) := by decide

/-- NL19 -/
theorem test_sth :
    after (withCaps 64 64 4 (base [0x0005#16, 0x0002#16] 0 [0xABCD#16])) =
      some { withCaps 64 64 4 (base [0x0005#16, 0x0002#16] 0 [0xABCD#16]) with
        ip := 2#16, sp := 0xFFFF#16, heap := [(2, 0xABCD#16)] } := by decide

/-- NL21: the pop is checked before the address. -/
theorem test_sth_underflow_first :
    after (withCaps 64 64 4 (base [0x0005#16, 0x0004#16] (-1) [])) =
      faulted .stackUnderflow 0xFFFFFFFF#32 (withCaps 64 64 4 (base [0x0005#16, 0x0004#16] (-1) [])) := by decide

/-- SA5: a negative count raises SP. -/
theorem test_drop_negative :
    after (withCaps 4 64 16 (base [0x0006#16, 0xFFFE#16] 0 [1#16])) =
      some { withCaps 4 64 16 (base [0x0006#16, 0xFFFE#16] 0 [1#16]) with ip := 2#16, sp := 2#16 } := by decide

/-- SA3 -/
theorem test_drop_underflow :
    after (base [0x0006#16, 0x0002#16] 0 [1#16]) =
      faulted .stackUnderflow 0xFFFFFFFE#32 (base [0x0006#16, 0x0002#16] 0 [1#16]) := by decide

/-- SA7 -/
theorem test_res :
    after (withCaps 4 64 16 (base [0x0007#16, 0x0003#16] 0 [1#16])) =
      some { withCaps 4 64 16 (base [0x0007#16, 0x0003#16] 0 [1#16]) with ip := 2#16, sp := 3#16 } := by decide

/-- SA11: the smallest FAULT_INFO an index can give, -32769. -/
theorem test_res_underflow :
    after (base [0x0007#16, 0x8000#16] (-1) []) =
      faulted .stackUnderflow 0xFFFF7FFF#32 (base [0x0007#16, 0x8000#16] (-1) []) := by decide

/-- CMP4: the compare is signed. -/
theorem test_lt :
    after (base [0x0008#16] 1 [0x8000#16, 0x7FFF#16]) =
      some { base [0x0008#16] 1 [0x8000#16, 0x7FFF#16] with
        ip := 1#16, sp := 0#16, os := [(0, 1#16), (1, 0x7FFF#16)] } := by decide

/-- CMP9: the second pop underflows; the first is undone. -/
theorem test_lt_underflow :
    after (base [0x0008#16] 0 [5#16]) = faulted .stackUnderflow 0xFFFFFFFF#32 (base [0x0008#16] 0 [5#16]) := by decide

/-- CMP6 -/
theorem test_eq :
    after (base [0x0009#16] 1 [0xFFFF#16, 0xFFFF#16]) =
      some { base [0x0009#16] 1 [0xFFFF#16, 0xFFFF#16] with
        ip := 1#16, sp := 0#16, os := [(0, 1#16), (1, 0xFFFF#16)] } := by decide

/-- CMP7 -/
theorem test_eq_false :
    after (base [0x0009#16] 1 [0x0000#16, 0x8000#16]) =
      some { base [0x0009#16] 1 [0x0000#16, 0x8000#16] with
        ip := 1#16, sp := 0#16, os := [(0, 0#16), (1, 0x8000#16)] } := by decide

/-- BR1 -/
theorem test_br :
    after (base [0x000A#16, 0x0004#16] (-1) []) =
      some { base [0x000A#16, 0x0004#16] (-1) [] with ip := 4#16 } := by decide

/-- BR2 -/
theorem test_brt_taken :
    after (base [0x000B#16, 0x0009#16] 0 [1#16]) =
      some { base [0x000B#16, 0x0009#16] 0 [1#16] with ip := 9#16, sp := 0xFFFF#16 } := by decide

/-- BR3: only exactly 1 is true. -/
theorem test_brt_two :
    after (base [0x000B#16, 0x0009#16] 0 [2#16]) =
      some { base [0x000B#16, 0x0009#16] 0 [2#16] with ip := 2#16, sp := 0xFFFF#16 } := by decide

/-- BR5 -/
theorem test_brf_taken :
    after (base [0x000C#16, 0x0009#16] 0 [0#16]) =
      some { base [0x000C#16, 0x0009#16] 0 [0#16] with ip := 9#16, sp := 0xFFFF#16 } := by decide

/-- BR6 -/
theorem test_brf_not_taken :
    after (base [0x000C#16, 0x0009#16] 0 [0xFFFF#16]) =
      some { base [0x000C#16, 0x0009#16] 0 [0xFFFF#16] with ip := 2#16, sp := 0xFFFF#16 } := by decide

/-- AR2: a sum wraps. -/
theorem test_add :
    after (base [0x000D#16] 1 [0x7FFF#16, 0x0001#16]) =
      some { base [0x000D#16] 1 [0x7FFF#16, 0x0001#16] with
        ip := 1#16, sp := 0#16, os := [(0, 0x8000#16), (1, 1#16)] } := by decide

/-- AR13 -/
theorem test_add_underflow :
    after (base [0x000D#16] 0 [5#16]) = faulted .stackUnderflow 0xFFFFFFFF#32 (base [0x000D#16] 0 [5#16]) := by decide

/-- AR4: the top of the stack is subtracted. -/
theorem test_sub :
    after (base [0x000E#16] 1 [5#16, 3#16]) =
      some { base [0x000E#16] 1 [5#16, 3#16] with ip := 1#16, sp := 0#16, os := [(0, 2#16), (1, 3#16)] } := by decide

/-- AR5 -/
theorem test_sub_wraps :
    after (base [0x000E#16] 1 [0#16, 1#16]) =
      some { base [0x000E#16] 1 [0#16, 1#16] with ip := 1#16, sp := 0#16, os := [(0, 0xFFFF#16), (1, 1#16)] } := by decide

/-- AR9: 300 times 300. -/
theorem test_mul :
    after (base [0x000F#16] 1 [0x012C#16, 0x012C#16]) =
      some { base [0x000F#16] 1 [0x012C#16, 0x012C#16] with
        ip := 1#16, sp := 0#16, os := [(0, 0x5F90#16), (1, 0x012C#16)] } := by decide

/-- TR3: 0xFFFF goes out and prints as -1. -/
theorem test_trap_out :
    (after (base [0x0010#16, 0x0001#16] 0 [0xFFFF#16]) =
      some { base [0x0010#16, 0x0001#16] 0 [0xFFFF#16] with
        ip := 2#16, sp := 0xFFFF#16, channel := [.trapOut 0xFFFF#16] }) ∧ hostPrinted 0xFFFF#16 = -1 := by decide

/-- TR5: the code is checked before the pop. -/
theorem test_trap_unknown :
    after (base [0x0010#16, 0x0002#16] (-1) []) =
      faulted .unknownTrap 2#32 (base [0x0010#16, 0x0002#16] (-1) []) := by decide

/-- CR2 -/
theorem test_call :
    after (withCaps 64 3 16 (base [0x0011#16, 0x000A#16, 0x0002#16] 1 [3#16, 4#16])) =
      some { withCaps 64 3 16 (base [0x0011#16, 0x000A#16, 0x0002#16] 1 [3#16, 4#16]) with
        ip := 10#16, fp := 1#16, lsp := 2#16, ls := [(0, 2#16), (1, 0xFFFF#16), (2, 3#16)] } := by decide

/-- CR3 -/
theorem test_call_overflow :
    after (withCaps 64 2 16 (base [0x0011#16, 0x000A#16, 0x0002#16] 1 [3#16, 4#16])) =
      faulted .linkOverflow 2#32 (withCaps 64 2 16 (base [0x0011#16, 0x000A#16, 0x0002#16] 1 [3#16, 4#16])) := by decide

/-- CR6 -/
theorem test_ret :
    after (vec [0x0012#16] 2 [3#16, 4#16, 15#16] 1 2 [2#16, 0xFFFF#16, 7#16] []) =
      some { vec [0x0012#16] 2 [3#16, 4#16, 15#16] 1 2 [2#16, 0xFFFF#16, 7#16] [] with
        ip := 7#16, fp := 0xFFFF#16, sp := 0#16, lsp := 0xFFFF#16, os := [(0, 15#16), (1, 4#16), (2, 15#16)] } := by decide

/-- CR8 in strict mode and CR9, the same state without the balance check. -/
theorem test_ret_imbalance :
    (after (vec [0x0012#16] 3 [3#16, 4#16, 99#16, 15#16] 1 2 [2#16, 0xFFFF#16, 7#16] []) =
      faulted .frameImbalance 2#32 (vec [0x0012#16] 3 [3#16, 4#16, 99#16, 15#16] 1 2 [2#16, 0xFFFF#16, 7#16] [])) ∧
    (after (original (vec [0x0012#16] 3 [3#16, 4#16, 99#16, 15#16] 1 2 [2#16, 0xFFFF#16, 7#16] [])) =
      some { original (vec [0x0012#16] 3 [3#16, 4#16, 99#16, 15#16] 1 2 [2#16, 0xFFFF#16, 7#16] []) with
        ip := 7#16, fp := 0xFFFF#16, sp := 1#16, lsp := 0xFFFF#16
        os := [(0, 3#16), (1, 15#16), (2, 99#16), (3, 15#16)] }) := by decide

/-- HL1 -/
theorem test_halt :
    after (base [0x0013#16] (-1) []) = some { base [0x0013#16] (-1) [] with ip := 1#16, status := .halted } := by decide

/-- HL2: PreStep and no PostStep. -/
theorem test_halt_trace :
    after { base [0x0013#16] (-1) [] with traceEn := true } =
      some { base [0x0013#16] (-1) [] with
        ip := 1#16, status := .halted, traceEn := true, channel := [.preStep 0#16 0x0013#16 .halt []] } := by decide

/-- P1's trace row `PreStep(7, TRAP, [1])  TrapOut(15)  PostStep([])`: the order within one step. -/
theorem test_trap_trace :
    after { base [0x0010#16, 0x0001#16] 0 [15#16] with traceEn := true } =
      some { base [0x0010#16, 0x0001#16] 0 [15#16] with
        ip := 2#16, sp := 0xFFFF#16, traceEn := true
        channel := [.preStep 0#16 0x0010#16 .trap [1#16], .trapOut 15#16, .postStep []] } := by decide

/-- A start from power-up with one instruction is what `withFetchWord` gives at reset (log 9). -/
theorem test_withFetchWord_is_a_start :
    State.reset.withFetchWord 32 0xBEEF0001 = hostStart ⟨[0x0001#16, 0xBEEF#16, 0#16], false⟩ State.reset := by decide

/-! ### Witnesses: the hypotheses of each statement, met by concrete states and operands -/

theorem witness_DecodeInvertsEncode :
    defaultOpcodeMap.wf ∧ Instr.wf (.call 0xFFFF#16 0x8000#16) = true ∧ Instr.wf .nop = true := by decide

theorem witness_DecodedWordsAreTheEncoding :
    decode defaultOpcodeMap [0x0011#16, 1#16, 2#16, 3#16] = .ok (.call 1#16 2#16, [3#16]) := rfl

theorem witness_MissingOperandWordIsTruncation :
    defaultOpcodeMap.wf ∧ ([] : List Word).length < Opcode.ldi.ops ∧ ([] : List Word).length < Opcode.call.ops ∧
    [5#16].length < Opcode.call.ops := by decide

/-- Both clauses: an LDI that completes and an LDF that stops the model. -/
theorem witness_StepRunsTheDecodedInstruction :
    (∃ t, (base [1#16, 5#16] (-1) []).status = .running ∧ (0 : Int) ≤ s16 (base [1#16, 5#16] (-1) []).ip ∧
      s16 (base [1#16, 5#16] (-1) []).ip < ((base [1#16, 5#16] (-1) []).progLen.toNat : Int) ∧
      decode defaultOpcodeMap (fetchWords 3 0 (base [1#16, 5#16] (-1) [])) = .ok (.ldi 5#16, []) ∧
      exec (.ldi 5#16) (base [1#16, 5#16] (-1) []) = .next t) ∧
    (∃ f, decode defaultOpcodeMap (fetchWords 3 0 (base [2#16, 5#16] (-1) [])) = .ok (.ldf 5#16, []) ∧
      exec (.ldf 5#16) (base [2#16, 5#16] (-1) []) = .fault f) :=
  ⟨⟨_, rfl, by decide, by decide, rfl, rfl⟩, ⟨_, rfl, rfl⟩⟩

theorem witness_StepFetchesTheEncodedWords :
    (base [1#16, 5#16] (-1) []).status = .running ∧ (base [1#16, 5#16] (-1) []).params.opcodeMap.wf ∧
    (0 : Int) ≤ s16 (base [1#16, 5#16] (-1) []).ip ∧
    s16 (base [1#16, 5#16] (-1) []).ip + (Instr.ldi 5#16).opcode.length ≤
      ((base [1#16, 5#16] (-1) []).progLen.toNat : Int) ∧
    (∀ (k : Nat) (w : Word), (encode defaultOpcodeMap (.ldi 5#16))[k]? = some w →
      (base [1#16, 5#16] (-1) []).prog.read (0 + k) = some w) := by
  refine ⟨rfl, by decide, by decide, by decide, fun k w h => ?_⟩
  match k, h with
  | 0, h => exact h
  | 1, h => exact h
  | k + 2, h => cases h

/-- Each clause: IP at PROG_LEN and beyond, IP at -1, and a block that is not RUNNING. -/
theorem witness_TopOfLoopEndsOrFaults :
    (s16 ({ base [0#16] (-1) [] with ip := 1#16 } : State).ip ≥ 1 ∧
      s16 ({ base [0#16] (-1) [] with ip := 0x7FFF#16 } : State).ip ≥ 1) ∧
    (s16 ({ base [0#16] (-1) [] with ip := 0xFFFF#16 } : State).ip < 0) ∧
    (base [0#16] (-1) []).status = .running ∧ (base [0#16] (-1) []).progLen.toNat = 1 ∧
    State.reset.status ≠ .running := by decide

theorem witness_UnknownOpcodeFaults :
    (0 : Int) ≤ s16 (base [0x0014#16] (-1) []).ip ∧ s16 (base [0x0014#16] (-1) []).ip < 1 ∧
    (base [0x0014#16] (-1) []).progLen.toNat = 1 ∧ (base [0x0014#16] (-1) []).prog.read 0 = some 0x0014#16 ∧
    ∀ o, (base [0x0014#16] (-1) []).params.opcodeMap.word o ≠ 0x0014#16 :=
  ⟨by decide, by decide, by decide, by decide, fun o => by cases o <;> decide⟩

/-- CALL with one of its two operand words. -/
theorem witness_TruncatedInstructionFaults :
    (base [0x0011#16, 5#16] (-1) []).params.opcodeMap.wf ∧
    (((base [0x0011#16, 5#16] (-1) []).progLen.toNat : Int) < s16 (base [0x0011#16, 5#16] (-1) []).ip + Opcode.call.length) ∧
    (base [0x0011#16, 5#16] (-1) []).prog.read 0 = some (defaultOpcodeMap.word .call) ∧
    (∀ j : Nat, 0 ≤ j → j < (base [0x0011#16, 5#16] (-1) []).progLen.toNat →
      ((base [0x0011#16, 5#16] (-1) []).prog.read j).isSome) := by
  refine ⟨by decide, by decide, by decide, fun j _ h => ?_⟩
  match j, h with
  | 0, _ => rfl
  | 1, _ => rfl

theorem witness_EndedRunsStayAsTheyAre :
    State.terminal { State.reset with status := .halted } ∧ State.terminal { State.reset with status := .ended } ∧
    State.terminal { State.reset with status := .faulted } := by decide

/-- Next states of every status a running step can leave: RUNNING, HALTED, ENDED, FAULTED. -/
theorem witness_RunningStepHasOneOfFourOutcomes :
    ((after (base [0#16] (-1) [])).map State.status = some .running) ∧
    ((after (base [0x0013#16] (-1) [])).map State.status = some .halted) ∧
    ((after (base [] (-1) [])).map State.status = some .ended) ∧
    ((after (base [0x000D#16] (-1) [])).map State.status = some .faulted) := by decide

/-- Each ground: a NOP that goes on, a negative IP, an unknown opcode, a missing operand word and an instruction's own fault. -/
theorem witness_RunningAndFaultedStepsHaveTheirGrounds :
    ((after (base [0#16] (-1) [])).map State.status = some .running) ∧
    ((after { base [0#16] (-1) [] with ip := 0xFFFF#16 }).map State.faultCause = some .fetchRange) ∧
    ((after (base [0x0014#16] (-1) [])).map State.faultCause = some .unknownOpcode) ∧
    ((after (base [0x0001#16] (-1) [])).map State.faultCause = some .truncatedInstruction) ∧
    ((after (base [0x000D#16] (-1) [])).map State.faultCause = some .stackUnderflow) := by decide

/-- A faulting step with its pre-step event and one without trace. -/
theorem witness_FaultsArePrecise :
    ((after { base [0x000D#16] (-1) [] with traceEn := true }).map State.status = some .faulted) ∧
    ((after (base [0x000D#16] (-1) [])).map State.status = some .faulted) := by decide

/-- The two ends of the range of informations. -/
theorem witness_TakingAFaultWritesItsRegisters :
    (-32769 : Int) ≤ -32769 ∧ (-32769 : Int) ≤ 65535 ∧ (65535 : Int) ≤ 65535 := by decide

theorem witness_OnlyListedFaultsAreRaised :
    ∃ t, exec .add (base [] (-1) []) = .next t ∧ t.status = .faulted := ⟨_, rfl, rfl⟩

/-- A callee's frame, RUNNING the program `ws`: two arguments, one linkage record, the return value pushed. -/
def calleeFrame (ws : List Word) : State := vec ws 2 [3#16, 4#16, 15#16] 1 2 [2#16, 0xFFFF#16, 7#16] []

/-- The invariant holds in that running state, for any program that fits. -/
theorem calleeFrame_inv (ws : List Word) (h : ws.length ≤ 32767) : (calleeFrame ws).Inv where
  params := by show defaultParams.wf; decide
  sp_low := by show (-1 : Int) ≤ BitVec.toInt 2#16; decide
  sp_high := by show BitVec.toInt 2#16 ≤ (64 : Int) - 1; decide
  fp_low := by show (-1 : Int) ≤ BitVec.toInt 1#16; decide
  fp_high := by show BitVec.toInt 1#16 ≤ (64 : Int) - 1; decide
  link := by
    refine ⟨1, by show BitVec.toInt 2#16 = 3 * ((1 : Nat) : Int) - 1; decide, by show 3 * 1 ≤ 64; decide, fun k hk => ?_⟩
    obtain rfl : k = 0 := by omega
    exact ⟨2#16, 0xFFFF#16, 7#16, rfl, rfl, rfl, by decide, by show BitVec.toInt 0xFFFF#16 ≤ (64 : Int) - 1; decide,
      by decide⟩
  os_wf := Memory.ofWords_wf _
  ls_wf := Memory.ofWords_wf _
  heap_wf := Memory.ofWords_wf _
  prog_wf := Memory.ofWords_wf _
  os_within := by show ∀ c ∈ Memory.ofWords [3#16, 4#16, 15#16], c.1 < 64; decide
  ls_within := by show ∀ c ∈ Memory.ofWords [2#16, 0xFFFF#16, 7#16], c.1 < 64; decide
  heap_within := by show ∀ c ∈ Memory.ofWords [], c.1 < 16; decide
  progLen_le := by
    show (BitVec.ofNat 16 ws.length).toNat ≤ 32767
    rw [BitVec.toNat_ofNat]; omega
  prog_loaded := fun i => by
    show ((Memory.ofWords ws).read i).isSome ↔ i < (BitVec.ofNat 16 ws.length).toNat
    rw [BitVec.toNat_ofNat, Memory.read_ofWords, Nat.mod_eq_of_lt (by omega)]
    simp
  fault_idle := fun _ => ⟨rfl, rfl, rfl⟩
  fault_taken := fun h => by cases h

/-- A CALL, a RET and a fault, each from a state with the invariant. -/
theorem witness_StepKeepsTheInvariant :
    ((calleeFrame [0x0011#16, 0#16, 1#16]).Inv ∧ ∃ t, step (calleeFrame [0x0011#16, 0#16, 1#16]) = .next t) ∧
    ((calleeFrame [0x0012#16]).Inv ∧ ∃ t, step (calleeFrame [0x0012#16]) = .next t) ∧
    ((calleeFrame [0x0014#16]).Inv ∧ ∃ t, step (calleeFrame [0x0014#16]) = .next t) :=
  ⟨⟨calleeFrame_inv _ (by decide), _, rfl⟩, ⟨calleeFrame_inv _ (by decide), _, rfl⟩,
    ⟨calleeFrame_inv _ (by decide), _, rfl⟩⟩

theorem witness_PowerUpMeetsTheInvariant :
    defaultParams.wf ∧ ({ defaultParams with stackCap := 1, linkCap := 0, heapCap := 0, progCap := 0 } : Params).wf := by
  decide

theorem witness_StartKeepsTheInvariant : (calleeFrame [0x0012#16]).Inv := calleeFrame_inv _ (by decide)

/-- Both kinds of cell: LDF of an unwritten slot and LDH of an unwritten heap cell. -/
theorem witness_ModelStopsOnlyOnUnwrittenData :
    ((calleeFrame [0x0002#16, 1#16]).Inv ∧ step (calleeFrame [0x0002#16, 1#16]) = .fault (.uninitialisedRead .os 3)) ∧
    ((calleeFrame [0x0003#16, 15#16]).Inv ∧
      step (calleeFrame [0x0003#16, 15#16]) = .fault (.uninitialisedRead .heap 15)) :=
  ⟨⟨calleeFrame_inv _ (by decide), rfl⟩, ⟨calleeFrame_inv _ (by decide), rfl⟩⟩

/-- Two different states that agree once the trace is taken away, and a traced step with all three kinds of event. -/
theorem witness_TraceIsObservationOnly :
    (({ base [0#16] (-1) [] with traceEn := true, channel := [.postStep []] } : State).untraced =
      (base [0#16] (-1) []).untraced) ∧
    (∃ t, step { base [0x0010#16, 0x0001#16] 0 [15#16] with traceEn := true } = .next t ∧ t.channel.length = 3) :=
  ⟨rfl, _, rfl, rfl⟩

/-- Each clause: a traced step that completes, halts, ends and faults. -/
theorem witness_TraceEventsOfAStep :
    ((after { base [0#16] (-1) [] with traceEn := true }).map State.status = some .running) ∧
    ((after { base [0x0013#16] (-1) [] with traceEn := true }).map State.status = some .halted) ∧
    ((after { base [] (-1) [] with traceEn := true }).map State.status = some .ended) ∧
    ((after { base [0x000D#16] (-1) [] with traceEn := true }).map State.status = some .faulted) := by decide

theorem witness_ProgramStaysAsLoaded :
    ∃ t, Host.Core.run Sys2Proof.core 2 (base [0#16, 0x0013#16] (-1) []) = .next t := ⟨_, rfl⟩

/-- An instruction outside each clause's exceptions, and each exception. -/
theorem witness_StateIsWrittenOnlyByItsInstructions :
    isNext (exec (.ldi 1#16) (base [] (-1) [])) ∧ isNext (exec (.sth 0#16) (base [] 0 [1#16])) ∧
    isNext (exec (.call 0#16 0#16) (base [] (-1) [])) ∧ isNext (exec .ret (calleeFrame [])) ∧
    isNext (exec .halt (base [] (-1) [])) ∧ isNext (exec (.trap 1#16) (base [] 0 [1#16])) := by decide

/-- NOP, and a BRT and a BRF that are not taken. -/
theorem witness_SequentialNextIp :
    (∃ t, exec .nop (base [] (-1) []) = .next t ∧ t.status ≠ .faulted) ∧
    ((∃ t, exec (.brt 9#16) (base [] 0 [2#16]) = .next t ∧ t.status ≠ .faulted) ∧
      (base [] 0 [2#16]).os.read 0 ≠ some 0x0001#16) ∧
    ((∃ t, exec (.brf 9#16) (base [] 0 [2#16]) = .next t ∧ t.status ≠ .faulted) ∧
      (base [] 0 [2#16]).os.read 0 ≠ some 0x0000#16) :=
  ⟨⟨_, rfl, by decide⟩, ⟨⟨_, rfl, by decide⟩, by decide⟩, ⟨⟨_, rfl, by decide⟩, by decide⟩⟩

theorem witness_LinkagePointerMovesByWholeRecords :
    (calleeFrame []).Inv ∧ (calleeFrame []).status = .running ∧
    (∃ t, exec (.call 0#16 1#16) (calleeFrame []) = .next t ∧ t.status ≠ .faulted) ∧
    (∃ t, exec .ret (calleeFrame []) = .next t ∧ t.status ≠ .faulted) ∧
    (∃ t, exec .add (calleeFrame []) = .next t ∧ t.status ≠ .faulted) :=
  ⟨calleeFrame_inv _ (by decide), rfl, ⟨_, rfl, by decide⟩, ⟨_, rfl, by decide⟩, ⟨_, rfl, by decide⟩⟩

/-- SP at -1 and at STACK_CAP - 2 completes, SP at STACK_CAP - 1 overflows. -/
theorem witness_LdiPushesItsWord :
    (-1 ≤ s16 (base [] (-1) []).sp ∧ s16 (base [] (-1) []).sp < (64 : Int) - 1) ∧
    (-1 ≤ s16 (base [] 62 []).sp ∧ s16 (base [] 62 []).sp < (64 : Int) - 1) ∧
    s16 (base [] 63 []).sp ≥ (64 : Int) - 1 := by decide

/-- The lowest slot, the slots just outside at both ends, a full stack, and an unwritten slot (the last one). -/
theorem witness_LdfPushesTheFrameSlot :
    ((0 : Int) = s16 (base [] 1 [7#16, 9#16]).fp + s16 0#16 + 1 ∧ (base [] 1 [7#16, 9#16]).os.read 0 = some 7#16 ∧
      s16 (base [] 1 [7#16, 9#16]).sp < (64 : Int) - 1) ∧
    ((-1 : Int) = s16 (base [] 1 [7#16]).fp + s16 0xFFFF#16 + 1 ∧ (64 : Int) = s16 (base [] 1 [7#16]).fp + s16 64#16 + 1) ∧
    ((base [] 63 [7#16]).os.read 0 = some 7#16 ∧ s16 (base [] 63 [7#16]).sp ≥ (64 : Int) - 1) ∧
    ((63 : Int) = s16 (base [] 1 [7#16]).fp + s16 63#16 + 1 ∧ (base [] 1 [7#16]).os.read 63 = none) := by decide

theorem witness_LdhPushesTheHeapCell :
    ((vec [] (-1) [] (-1) (-1) [] [8#16]).heap.read (s16 0#16).toNat = some 8#16 ∧
      s16 (vec [] (-1) [] (-1) (-1) [] [8#16]).sp < (64 : Int) - 1) ∧
    (s16 0xFFFF#16 < 0 ∧ s16 16#16 > (16 : Int) - 1) ∧
    s16 (vec [] 63 [] (-1) (-1) [] [8#16]).sp ≥ (64 : Int) - 1 ∧
    (s16 15#16 ≤ (16 : Int) - 1 ∧ (vec [] (-1) [] (-1) (-1) [] [8#16]).heap.read (s16 15#16).toNat = none) := by decide

/-- The lowest and the highest slot, the slots just outside, and an empty stack. -/
theorem witness_StfStoresToTheFrameSlot :
    ((base [] 0 [7#16]).os.read (s16 (base [] 0 [7#16]).sp).toNat = some 7#16 ∧ 0 ≤ s16 (base [] 0 [7#16]).sp ∧
      (0 : Int) = s16 (base [] 0 [7#16]).fp + s16 0#16 + 1 ∧ (63 : Int) = s16 (base [] 0 [7#16]).fp + s16 63#16 + 1) ∧
    ((-1 : Int) = s16 (base [] 0 [7#16]).fp + s16 0xFFFF#16 + 1 ∧ (64 : Int) = s16 (base [] 0 [7#16]).fp + s16 64#16 + 1) ∧
    s16 (base [] (-1) []).sp < 0 := by decide

theorem witness_SthStoresToTheHeapCell :
    ((base [] 0 [7#16]).os.read (s16 (base [] 0 [7#16]).sp).toNat = some 7#16 ∧ 0 ≤ s16 (base [] 0 [7#16]).sp ∧
      0 ≤ s16 0#16 ∧ s16 15#16 ≤ (16 : Int) - 1) ∧
    (s16 0xFFFF#16 < 0 ∧ s16 16#16 > (16 : Int) - 1) ∧ s16 (base [] (-1) []).sp < 0 := by decide

theorem witness_LoadsWriteOnlyThePushedCell :
    (∃ t, exec (.ldi 5#16) (base [] 0 [7#16]) = .next t ∧ t.status ≠ .faulted) ∧
    (∃ t, exec (.ldf 0#16) (base [] 0 [7#16]) = .next t ∧ t.status ≠ .faulted) ∧
    (∃ t, exec (.ldh 0#16) (vec [] 0 [7#16] (-1) (-1) [] [8#16]) = .next t ∧ t.status ≠ .faulted) :=
  ⟨⟨_, rfl, by decide⟩, ⟨_, rfl, by decide⟩, ⟨_, rfl, by decide⟩⟩

theorem witness_StoresWriteOnlyTheirCell :
    (∃ t, exec (.stf 3#16) (base [] 0 [7#16]) = .next t ∧ t.status ≠ .faulted) ∧
    (∃ t, exec (.sth 3#16) (base [] 0 [7#16]) = .next t ∧ t.status ≠ .faulted) :=
  ⟨⟨_, rfl, by decide⟩, ⟨_, rfl, by decide⟩⟩

theorem witness_HeapLoadReturnsTheStoredWord :
    (base [] 0 [7#16]).params.wf ∧ 0 ≤ s16 (base [] 0 [7#16]).sp ∧ s16 (base [] 0 [7#16]).sp ≤ (64 : Int) - 1 ∧
    (base [] 0 [7#16]).os.read 0 = some 7#16 ∧ 0 ≤ s16 15#16 ∧ s16 15#16 ≤ (16 : Int) - 1 := by decide

theorem witness_LdiThenDropRestoresSp :
    (base [] 62 []).params.wf ∧ -1 ≤ s16 (base [] (-1) []).sp ∧ s16 (base [] 62 []).sp < (64 : Int) - 1 := by decide

/-- The new SP at -1, at STACK_CAP - 1, and just outside at each end. -/
theorem witness_DropLowersSp :
    ((-1 : Int) = s16 (base [] 0 []).sp - s16 1#16 ∧ (63 : Int) = s16 (base [] 0 []).sp - s16 0xFFC1#16) ∧
    (-2 : Int) = s16 (base [] 0 []).sp - s16 2#16 ∧ (64 : Int) = s16 (base [] 0 []).sp - s16 0xFFC0#16 := by decide

theorem witness_ResRaisesSp :
    ((-1 : Int) = s16 (base [] 0 []).sp + s16 0xFFFF#16 ∧ (63 : Int) = s16 (base [] 0 []).sp + s16 63#16) ∧
    (-2 : Int) = s16 (base [] 0 []).sp + s16 0xFFFE#16 ∧ (64 : Int) = s16 (base [] 0 []).sp + s16 64#16 := by decide

/-- The lowest SP that has two values. -/
theorem witness_ComparisonsPushTheirTruthWord :
    1 ≤ s16 (base [] 1 [3#16, 4#16]).sp ∧ s16 (base [] 1 [3#16, 4#16]).sp ≤ (64 : Int) - 1 ∧
    (base [] 1 [3#16, 4#16]).os.read 1 = some 4#16 ∧ (base [] 1 [3#16, 4#16]).os.read 0 = some 3#16 := by decide

theorem witness_ArithmeticPushesTheWrappedResult :
    1 ≤ s16 (calleeFrame []).sp ∧ s16 (calleeFrame []).sp ≤ (64 : Int) - 1 ∧
    (calleeFrame []).os.read 2 = some 15#16 ∧ (calleeFrame []).os.read 1 = some 4#16 := by decide

theorem witness_BinaryOperationsUnderflow :
    Instr.sub ∈ [Instr.lt, .eq, .add, .sub, .mul] ∧ s16 (base [] (-1) []).sp = -1 ∧
    s16 (base [] 0 [5#16]).sp = 0 ∧ ((base [] 0 [5#16]).os.read 0).isSome := by decide

theorem witness_BinaryOperationsWriteOnlyTheResultCell :
    ∃ t, exec .mul (calleeFrame []) = .next t ∧ t.status ≠ .faulted := ⟨_, rfl, by decide⟩

/-- A value taken by BRT, one by BRF, one by neither, and an empty stack. -/
theorem witness_ConditionalBranchesPopAndTest :
    ((base [] 0 [1#16]).os.read 0 = some 1#16 ∧ (base [] 0 [0#16]).os.read 0 = some 0#16 ∧
      (base [] 0 [2#16]).os.read 0 = some 2#16 ∧ 0 ≤ s16 (base [] 0 [2#16]).sp ∧
      s16 (base [] 0 [2#16]).sp ≤ (64 : Int) - 1) ∧ s16 (base [] (-1) []).sp < 0 := by decide

/-- A target at PROG_LEN and a target of -1. -/
theorem witness_NextStepChecksTheBranchTarget :
    (∃ t, exec (.br 2#16) (base [10#16, 2#16] (-1) []) = .next t) ∧ s16 2#16 ≥ 2 ∧
    (base [10#16, 2#16] (-1) []).progLen.toNat = 2 ∧
    (∃ t, exec (.br 0xFFFF#16) (base [10#16, 0xFFFF#16] (-1) []) = .next t) ∧ s16 0xFFFF#16 < 0 :=
  ⟨⟨_, rfl⟩, by decide, by decide, ⟨_, rfl⟩, by decide⟩

theorem witness_TrapEmitsOrFaults :
    (0 ≤ s16 (base [] 0 [5#16]).sp ∧ s16 (base [] 0 [5#16]).sp ≤ (64 : Int) - 1 ∧
      (base [] 0 [5#16]).os.read 0 = some 5#16) ∧
    ((0x0101#16 : Word) ≠ 0x0001#16 ∧ (0x0000#16 : Word) ≠ 0x0001#16) ∧ s16 (base [] (-1) []).sp < 0 := by decide

/-- Exactly three free cells, and two. -/
theorem witness_CallPushesItsRecordAndJumps :
    (-1 ≤ s16 (withCaps 64 3 16 (base [] 1 [])).lsp ∧ s16 (withCaps 64 3 16 (base [] 1 [])).lsp + 3 ≤ (3 : Int) - 1) ∧
    s16 (withCaps 64 2 16 (base [] 1 [])).lsp + 3 > (2 : Int) - 1 := by decide

theorem witness_CallRecordLayout :
    (-1 : Int) = s16 (withCaps 64 3 16 (base [] 1 [])).lsp ∧ (withCaps 64 3 16 (base [] 1 [])).params.wf ∧
    (-1 : Int) + 3 ≤ ((withCaps 64 3 16 (base [] 1 [])).params.linkCap : Int) - 1 := by decide

theorem witness_RetUnwindsOneFrame :
    (calleeFrame []).params.wf ∧ 2 ≤ s16 (calleeFrame []).lsp ∧ s16 (calleeFrame []).lsp ≤ (64 : Int) - 1 ∧
    s16 (calleeFrame []).sp = s16 (calleeFrame []).fp + 1 ∧ 0 ≤ s16 (calleeFrame []).sp ∧
    (calleeFrame []).os.read 2 = some 15#16 ∧ (calleeFrame []).ls.read 0 = some 2#16 ∧
    (calleeFrame []).ls.read 1 = some 0xFFFF#16 ∧ (calleeFrame []).ls.read 2 = some 7#16 ∧
    0 ≤ s16 (calleeFrame []).sp - s16 2#16 ∧ s16 (calleeFrame []).sp - s16 2#16 ≤ (64 : Int) - 1 := by decide

/-- Each clause: no record; an unbalanced frame; an empty stack without the check; the saved counts of CR10 and CR12. -/
theorem witness_RetFaultsInOrder :
    s16 (base [] (-1) []).lsp < 2 ∧
    (2 ≤ s16 (vec [] 3 [3#16] 1 2 [2#16, 0xFFFF#16, 7#16] []).lsp ∧
      s16 (vec [] 3 [3#16] 1 2 [2#16, 0xFFFF#16, 7#16] []).sp ≠ s16 (vec [] 3 [3#16] 1 2 [2#16, 0xFFFF#16, 7#16] []).fp + 1) ∧
    (2 ≤ s16 (original (vec [] (-1) [] 1 2 [2#16, 0xFFFF#16, 7#16] [])).lsp ∧
      (original (vec [] (-1) [] 1 2 [2#16, 0xFFFF#16, 7#16] [])).params.retCheck ≠ .strict ∧
      s16 (original (vec [] (-1) [] 1 2 [2#16, 0xFFFF#16, 7#16] [])).sp < 0) ∧
    (s16 (vec [] 2 [3#16, 4#16, 15#16] 1 2 [5#16, 0xFFFF#16, 7#16] []).sp - s16 5#16 < 0 ∧
      (vec [] 2 [3#16, 4#16, 15#16] 1 2 [5#16, 0xFFFF#16, 7#16] []).os.read 2 = some 15#16) ∧
    (s16 (withCaps 2 64 16 (vec [] 0 [15#16] (-1) 2 [0xFFFE#16, 0xFFFF#16, 7#16] [])).sp - s16 0xFFFE#16 > (2 : Int) - 1 ∧
      (withCaps 2 64 16 (vec [] 0 [15#16] (-1) 2 [0xFFFE#16, 0xFFFF#16, 7#16] [])).params.wf) := by decide

/-- P1's call: two arguments, CALL at index 4, the callee's frame with its value pushed. -/
theorem witness_CallAndReturnBalanceTheStack :
    ∃ c', exec (.call 10#16 2#16) { base [] 1 [3#16, 4#16] with ip := 4#16 } = .next c' ∧
      (calleeFrame []).params = (base [] 1 [3#16, 4#16]).params ∧ (calleeFrame []).fp = c'.fp ∧
      (calleeFrame []).lsp = c'.lsp ∧
      (∀ k : Nat, (-1 : Int) < (k : Int) → (k : Int) ≤ s16 c'.lsp → (calleeFrame []).ls.read k = c'.ls.read k) ∧
      s16 (base [] 1 [3#16, 4#16]).sp = -1 + s16 2#16 ∧ s16 (calleeFrame []).sp = s16 (calleeFrame []).fp + 1 ∧
      (calleeFrame []).os.read 2 = some 15#16 := by
  refine ⟨_, rfl, rfl, rfl, rfl, fun k _ h => ?_, by decide, by decide, rfl⟩
  have h' : (k : Int) ≤ s16 2#16 := h
  rw [show s16 2#16 = 2 from by decide] at h'
  match k, h' with
  | 0, _ => rfl
  | 1, _ => rfl
  | 2, _ => rfl
  | k + 3, h' => omega

/-- Each case of R194: pop underflow (SP = -1), collapse underflow (CR7) and completion (CR9). -/
theorem witness_OriginalRetCollapsesFromSp :
    (s16 (original (vec [] (-1) [] 1 2 [2#16, 0xFFFF#16, 7#16] [])).sp = -1 ∧ (-2 : Int) ≥ -(-1 + s16 2#16 + 1) ∧
      s16 (original (vec [] (-1) [] 1 2 [2#16, 0xFFFF#16, 7#16] [])).sp = 1 + -2) ∧
    (s16 (original (vec [] 1 [3#16, 4#16] 1 2 [2#16, 0xFFFF#16, 7#16] [])).sp = 1 + 0 ∧ (-1 : Int) + 0 < 0 ∧
      (original (vec [] 1 [3#16, 4#16] 1 2 [2#16, 0xFFFF#16, 7#16] [])).os.read 1 = some 4#16) ∧
    (s16 (original (vec [] 3 [3#16, 4#16, 99#16, 15#16] 1 2 [2#16, 0xFFFF#16, 7#16] [])).sp = 1 + 2 ∧
      s16 (original (vec [] 3 [3#16, 4#16, 99#16, 15#16] 1 2 [2#16, 0xFFFF#16, 7#16] [])).fp = -1 + s16 2#16 ∧
      (original (vec [] 3 [3#16, 4#16, 99#16, 15#16] 1 2 [2#16, 0xFFFF#16, 7#16] [])).os.read 3 = some 15#16 ∧
      (original (vec [] 3 [3#16, 4#16, 99#16, 15#16] 1 2 [2#16, 0xFFFF#16, 7#16] [])).params.retCheck = .original) := by
  decide

/-- An accepted request, one while RUNNING and one a word too long. -/
theorem witness_StartSetsUpTheRun :
    (State.reset.status ≠ .running ∧ [1#16, 5#16].length ≤ State.reset.params.progCap ∧
      State.reset.params.progCap ≤ 32767) ∧
    (base [] (-1) []).status = .running ∧
    [1#16, 5#16].length > ({ State.reset with params := { defaultParams with progCap := 1 } } : State).params.progCap := by
  decide

/-- A RUNNING block; an ENDED one with a written cell, a never-written last cell and the first index past the bound, for PROG
too, whose bound is the program's length. -/
theorem witness_ReadBackOnlyWhenNotRunning :
    (base [] (-1) []).status = .running ∧
    ({ base [0#16] 0 [7#16] with status := .ended } : State).status ≠ .running ∧
    (0 < (base [0#16] 0 [7#16]).bound .os ∧ ((base [0#16] 0 [7#16]).space .os).read 0 = some 7#16) ∧
    (63 < (base [0#16] 0 [7#16]).bound .os ∧ ((base [0#16] 0 [7#16]).space .os).read 63 = none) ∧
    (base [0#16] 0 [7#16]).bound .os ≤ 64 ∧ (base [0#16] 0 [7#16]).bound .prog ≤ 1 := by decide

/-- R50: PROG's last index is PROG_LEN-1, and PROG_LEN names no cell. -/
theorem test_read_back_of_prog :
    (hostReadCell .prog 0 { base [0x0013#16] (-1) [] with status := .halted } = .value 0x0013#16) ∧
    (hostReadCell .prog 1 { base [0x0013#16] (-1) [] with status := .halted } = .noSuchCell) := by decide

end Sys2Proof.Tests
end

section
/-! PROOFS. What a step and a run can be, and that nothing a step does writes what the host loaded (spec/20_memory.md R62,
with R32, R33 and R6). -/

namespace Sys2Proof.Machine

/-! ### One step, and any number of steps -/

theorem closeStep_next {r : Host.Outcome State Fault Refusal} {t : State} (h : closeStep r = .next t) :
    ∃ u, r = .next u ∧ t = postStep u := by
  cases r with
  | next u => injection h with h; exact ⟨u, rfl, h.symm⟩
  | fault f => cases h
  | refused x => cases h

/-- Everything a step that answers a next state can do (R92, R93, R96). -/
theorem step_next {s t : State} (h : step s = .next t) :
    (s.status ≠ .running ∧ t = s) ∨
    (s.status = .running ∧ fetch s = .ended ∧ t = s.setStatus .ended) ∨
    (s.status = .running ∧ ∃ c x, fetch s = .stopped (.raise c x) ∧ t = takeFault c x s) ∨
    (s.status = .running ∧ ∃ i u, fetch s = .decoded i ∧ exec i (openStep i s) = .next u ∧ t = postStep u) := by
  unfold step at h
  by_cases hr : s.status = .running
  · rw [if_pos hr] at h
    cases hf : fetch s with
    | ended =>
      rw [hf] at h
      injection h with h
      exact .inr (.inl ⟨hr, rfl, h.symm⟩)
    | stopped r =>
      rw [hf] at h
      rcases conclude_next h with hok | ⟨c, x, hx, ht⟩
      · cases hok
      · injection hx with hx
        exact .inr (.inr (.inl ⟨hr, c, x, congrArg Fetched.stopped hx, ht⟩))
    | decoded i =>
      rw [hf] at h
      obtain ⟨u, hu, ht⟩ := closeStep_next h
      exact .inr (.inr (.inr ⟨hr, i, u, rfl, hu, ht⟩))
  · rw [if_neg hr] at h
    injection h with h
    exact .inl ⟨hr, h.symm⟩

theorem run_succ_next {M : Host.Core} {k : Nat} {s t : M.State} (h : M.run (k + 1) s = .next t) :
    ∃ u, M.step s = .next u ∧ M.run k u = .next t := by
  unfold Host.Core.run at h
  split at h
  · rename_i u hu; exact ⟨u, hu, h⟩
  · cases h
  · cases h

/-- What every step keeps, every run keeps. -/
theorem run_induction {P : State → Prop} (keep : ∀ s t, P s → step s = .next t → P t) {k : Nat} {s t : State} (hs : P s)
    (h : Host.Core.run Sys2Proof.core k s = .next t) : P t := by
  induction k generalizing s with
  | zero => injection h with h; exact h ▸ hs
  | succ k ih =>
    obtain ⟨u, hu, h⟩ := run_succ_next (M := Sys2Proof.core) h
    exact ih (keep s u hs hu) h

/-! ### What the host loaded -/

/-- What a start of a run loads and the parameters: the part of the state no step writes (R62, R33, R32, R6). -/
def State.loaded (s : State) : Memory × BitVec 16 × Bool × Params := (s.prog, s.progLen, s.traceEn, s.params)

theorem State.loaded_eq_iff {s t : State} : t.loaded = s.loaded ↔
    t.prog = s.prog ∧ t.progLen = s.progLen ∧ t.traceEn = s.traceEn ∧ t.params = s.params := by
  simp only [State.loaded, Prod.mk.injEq]

@[simp] theorem State.setIp_loaded (s : State) (v : Int) : (s.setIp v).loaded = s.loaded := rfl
@[simp] theorem State.setFp_loaded (s : State) (v : Int) : (s.setFp v).loaded = s.loaded := rfl
@[simp] theorem State.setSp_loaded (s : State) (v : Int) : (s.setSp v).loaded = s.loaded := rfl
@[simp] theorem State.setLsp_loaded (s : State) (v : Int) : (s.setLsp v).loaded = s.loaded := rfl
@[simp] theorem State.setStatus_loaded (s : State) (x : Status) : (s.setStatus x).loaded = s.loaded := rfl
@[simp] theorem State.emit_loaded (s : State) (e : Event) : (s.emit e).loaded = s.loaded := rfl
@[simp] theorem State.advance_loaded (s : State) (o : Opcode) : (s.advance o).loaded = s.loaded := rfl
@[simp] theorem takeFault_loaded (c : Cause) (x : Int) (s : State) : (takeFault c x s).loaded = s.loaded := rfl

@[simp] theorem openStep_loaded (i : Instr) (s : State) : (openStep i s).loaded = s.loaded := by
  unfold openStep; split <;> rfl

@[simp] theorem postStep_loaded (s : State) : (postStep s).loaded = s.loaded := by
  unfold postStep; split <;> rfl

section
variable {s t : State}

theorem push_loaded {v : Word} (h : push v s = .ok t) : t.loaded = s.loaded := by
  obtain ⟨-, rfl⟩ := push_ok h
  rfl

theorem pop_loaded {v : Word} (h : pop s = .ok (v, t)) : t.loaded = s.loaded := by
  obtain ⟨-, -, rfl⟩ := pop_ok h
  rfl

theorem adjustSp_loaded {n : Int} (h : adjustSp n s = .ok t) : t.loaded = s.loaded := by
  obtain ⟨-, -, rfl⟩ := adjustSp_ok h
  rfl

theorem binary_loaded {f : Word → Word → Word} (h : binary f s = .ok t) : t.loaded = s.loaded := by
  obtain ⟨-, -, a, b, -, -, rfl⟩ := binary_ok h
  rfl

theorem popBranch_loaded {f : Word → Bool} {a : Word} (h : popBranch f a s = .ok t) : t.loaded = s.loaded := by
  obtain ⟨-, v, -, rfl⟩ := popBranch_ok h
  rfl

theorem collapse_loaded {n : Int} {rv : Word} (h : collapse n rv s = .ok t) : t.loaded = s.loaded := by
  unfold collapse at h
  split at h
  · cases h
  split at h
  · cases h
  · rw [push_loaded h, State.setSp_loaded]

/-- `retBody_ok` needs STACK_CAP in its range; this holds for all parameters. -/
theorem retBody_loaded (h : retBody s = .ok t) : t.loaded = s.loaded := by
  unfold retBody at h
  split at h
  · cases h
  split at h
  · cases h
  obtain ⟨⟨rv, s₁⟩, hpop, h⟩ := bind_eq_ok h
  obtain ⟨retIp, -, h⟩ := bind_eq_ok h
  obtain ⟨savedFp, -, h⟩ := bind_eq_ok h
  obtain ⟨n, -, hcol⟩ := bind_eq_ok h
  rw [collapse_loaded hcol, State.setFp_loaded, State.setIp_loaded, State.setLsp_loaded, pop_loaded hpop]

/-- No instruction's pseudocode writes PROG, PROG_LEN, TRACE_EN or the parameters (R55). -/
theorem bodyOf_loaded (i : Instr) (h : bodyOf i s = .ok t) : t.loaded = s.loaded := by
  cases i with
  | nop => injection h with h; rw [← h]
  | ldi v => exact push_loaded h
  | ldf a => obtain ⟨-, -, v, -, rfl⟩ := ldfBody_ok h; rfl
  | ldh a => obtain ⟨-, -, v, -, rfl⟩ := ldhBody_ok h; rfl
  | stf a => obtain ⟨-, -, v, -, rfl⟩ := stfBody_ok h; rfl
  | sth a => obtain ⟨-, -, v, -, rfl⟩ := sthBody_ok h; rfl
  | drop n => exact adjustSp_loaded h
  | res n => exact adjustSp_loaded h
  | lt => simp only [bodyOf] at h; exact binary_loaded h
  | eq => simp only [bodyOf] at h; exact binary_loaded h
  | br a => injection h with h; rw [← h, State.setIp_loaded]
  | brt a => exact popBranch_loaded h
  | brf a => exact popBranch_loaded h
  | add => simp only [bodyOf] at h; exact binary_loaded h
  | sub => simp only [bodyOf] at h; exact binary_loaded h
  | mul => simp only [bodyOf] at h; exact binary_loaded h
  | trap c => obtain ⟨-, -, v, -, rfl⟩ := trapBody_ok h; rfl
  | call a n => obtain ⟨-, -, rfl⟩ := callBody_ok h; rfl
  | ret => exact retBody_loaded h
  | halt => injection h with h; rw [← h, State.setStatus_loaded]

theorem exec_loaded {i : Instr} (h : exec i s = .next t) : t.loaded = s.loaded := by
  rcases exec_next h with h | ⟨c, x, -, rfl⟩
  · rw [bodyOf_loaded i h, State.advance_loaded]
  · exact takeFault_loaded c x s

theorem step_loaded (h : step s = .next t) : t.loaded = s.loaded := by
  rcases step_next h with ⟨-, rfl⟩ | ⟨-, -, rfl⟩ | ⟨-, c, x, -, rfl⟩ | ⟨-, i, u, -, hu, rfl⟩
  · rfl
  · exact State.setStatus_loaded s .ended
  · exact takeFault_loaded c x s
  · rw [postStep_loaded, exec_loaded hu, openStep_loaded]

end

/-- Settles O25: every step keeps `State.loaded`, so by induction on the number of steps every run does. -/
theorem programStaysAsLoaded : Obligations.ProgramStaysAsLoaded := by
  intro k s t h
  have keep : ∀ u v : State, u.loaded = s.loaded → step u = .next v → v.loaded = s.loaded :=
    fun _ _ hu hv => (step_loaded hv).trans hu
  exact State.loaded_eq_iff.1 (run_induction (P := fun u => u.loaded = s.loaded) keep rfl h)

end Sys2Proof.Machine
end

section
/-! PROOFS. What one step is in each case, and the top of the loop (spec/40_fetch_decode_execute.md R92). -/

namespace Sys2Proof.Machine

section
variable {s : State}

/-! ### One equation of `step` per answer of the fetch -/

theorem step_of_not_running (h : s.status ≠ .running) : step s = .next s := by
  unfold step; rw [if_neg h]

theorem step_of_ended (h : s.status = .running) (hf : fetch s = .ended) : step s = .next (s.setStatus .ended) := by
  unfold step; rw [if_pos h, hf]

theorem step_of_stopped {r : Stop} (h : s.status = .running) (hf : fetch s = .stopped r) :
    step s = conclude s (.error r) := by
  unfold step; rw [if_pos h, hf]

theorem step_of_decoded {i : Instr} (h : s.status = .running) (hf : fetch s = .decoded i) :
    step s = closeStep (exec i (openStep i s)) := by
  unfold step; rw [if_pos h, hf]

/-! ### The top of the loop -/

theorem fetch_of_ip_ge (h : s16 s.ip ≥ (s.progLen.toNat : Int)) : fetch s = .ended := by
  unfold fetch; rw [if_pos h]

theorem fetch_of_ip_neg (h : s16 s.ip < 0) : fetch s = .stopped (.raise .fetchRange (s16 s.ip)) := by
  unfold fetch; rw [if_neg (by omega), if_pos h]

theorem step_of_ip_ge (h : s.status = .running) (hip : s16 s.ip ≥ (s.progLen.toNat : Int)) :
    step s = .next (s.setStatus .ended) :=
  step_of_ended h (fetch_of_ip_ge hip)

theorem step_of_ip_neg (h : s.status = .running) (hip : s16 s.ip < 0) :
    step s = .next (takeFault .fetchRange (s16 s.ip) s) := by
  rw [step_of_stopped h (fetch_of_ip_neg hip), conclude_raise]

/-! ### The state an accepted start request leaves (spec/70_reset_and_hazards.md R240) -/

variable {r : StartRequest}

theorem hostStart_status (h : startAccepted r s) : (hostStart r s).status = .running := by
  unfold hostStart; rw [if_pos h]

theorem hostStart_ip (h : startAccepted r s) : (hostStart r s).ip = 0#16 := by
  unfold hostStart; rw [if_pos h]

theorem hostStart_progLen (h : startAccepted r s) : (hostStart r s).progLen = BitVec.ofNat 16 r.program.length := by
  unfold hostStart; rw [if_pos h]

end

/-- Settles O8: the two tests of the top of the loop, and a start of an empty program leaves IP = PROG_LEN = 0. -/
theorem topOfLoopEndsOrFaults : Obligations.TopOfLoopEndsOrFaults := by
  intro s
  refine ⟨step_of_ip_ge, step_of_ip_neg, fun hs trace => ?_⟩
  have hacc : startAccepted ⟨[], trace⟩ s := ⟨hs, Nat.zero_le _⟩
  have hip : s16 (hostStart ⟨[], trace⟩ s).ip ≥ ((hostStart ⟨[], trace⟩ s).progLen.toNat : Int) := by
    rw [hostStart_ip hacc, hostStart_progLen hacc, List.length_nil]; decide
  exact step_of_ip_ge (hostStart_status hacc) hip

end Sys2Proof.Machine
end

section
/-! PROOFS. Where an instruction leaves IP (spec/40_fetch_decode_execute.md R94). -/

namespace Sys2Proof.Machine

/-- R94's exceptions: the instruction, run with this operand stack, writes IP itself. -/
def jumpsFrom (s : State) : Instr → Prop
  | .br _ => True
  | .brt _ => s.os.read (s16 s.sp).toNat = some 0x0001#16
  | .brf _ => s.os.read (s16 s.sp).toNat = some 0x0000#16
  | .call _ _ => True
  | .ret => True
  | _ => False

section
variable {s t : State}

/-- A conditional branch whose condition fails on the popped value leaves IP. -/
theorem popBranch_ip {f : Word → Bool} {a : Word} (h : popBranch f a s = .ok t)
    (hf : ∀ v, s.os.read (s16 s.sp).toNat = some v → f v = false) : t.ip = s.ip := by
  obtain ⟨-, v, hv, rfl⟩ := popBranch_ok h
  simp only [hf v hv, Bool.false_eq_true, if_false]

/-- A completed instruction that does not jump leaves IP where its operand fetches left it. -/
theorem bodyOf_ip (i : Instr) (h : bodyOf i s = .ok t) (hj : ¬ jumpsFrom s i) : t.ip = s.ip := by
  cases i with
  | nop => injection h with h; rw [← h]
  | ldi v => obtain ⟨-, rfl⟩ := push_ok h; rfl
  | ldf a => obtain ⟨-, -, v, -, rfl⟩ := ldfBody_ok h; rfl
  | ldh a => obtain ⟨-, -, v, -, rfl⟩ := ldhBody_ok h; rfl
  | stf a => obtain ⟨-, -, v, -, rfl⟩ := stfBody_ok h; rfl
  | sth a => obtain ⟨-, -, v, -, rfl⟩ := sthBody_ok h; rfl
  | drop n => obtain ⟨-, -, rfl⟩ := adjustSp_ok h; rfl
  | res n => obtain ⟨-, -, rfl⟩ := adjustSp_ok h; rfl
  | lt | eq | add | sub | mul =>
    simp only [bodyOf] at h
    obtain ⟨-, -, a, b, -, -, rfl⟩ := binary_ok h
    rfl
  | br a => exact absurd trivial hj
  | brt a => exact popBranch_ip h fun v hv => decide_eq_false fun e => hj (hv.trans (congrArg some e))
  | brf a => exact popBranch_ip h fun v hv => decide_eq_false fun e => hj (hv.trans (congrArg some e))
  | trap c => obtain ⟨-, -, v, -, rfl⟩ := trapBody_ok h; rfl
  | call a n => exact absurd trivial hj
  | ret => exact absurd trivial hj
  | halt => injection h with h; rw [← h, State.setStatus_ip]

theorem exec_ip {i : Instr} (h : exec i s = .next t) (ht : t.status ≠ .faulted)
    (hj : ¬ jumpsFrom (s.advance i.opcode) i) : t.ip = word (s16 s.ip + i.opcode.length) :=
  (bodyOf_ip i (exec_completed h ht) hj).trans (State.advance_ip s i.opcode)

end

/-- Settles O27: the five exceptions of the statement are `jumpsFrom`. -/
theorem sequentialNextIp : Obligations.SequentialNextIp := by
  intro i s t _ hexec hfault hbr hcall hret hbrt hbrf
  refine exec_ip hexec hfault fun hj => ?_
  cases i with
  | br a => exact hbr a rfl
  | brt a => exact hbrt a rfl hj
  | brf a => exact hbrf a rfl hj
  | call a n => exact hcall a n rfl
  | ret => exact hret rfl
  | _ => exact hj

end Sys2Proof.Machine
end

section
/-! PROOFS. Taking the trace away commutes with a step (spec/40_fetch_decode_execute.md R110): every operation on a state
without its trace gives what it gives on the state itself, without the trace. -/

namespace Sys2Proof.Machine

/-! ### The fields of a state without its trace -/

section
variable (s : State)

@[simp] theorem State.untraced_ip : s.untraced.ip = s.ip := rfl
@[simp] theorem State.untraced_sp : s.untraced.sp = s.sp := rfl
@[simp] theorem State.untraced_prog : s.untraced.prog = s.prog := rfl
@[simp] theorem State.untraced_progLen : s.untraced.progLen = s.progLen := rfl
@[simp] theorem State.untraced_params : s.untraced.params = s.params := rfl

@[simp] theorem State.untraced_space (sp : Space) : s.untraced.space sp = s.space sp := by cases sp <;> rfl
@[simp] theorem State.untraced_bound (sp : Space) : s.untraced.bound sp = s.bound sp := by cases sp <;> rfl

@[simp] theorem State.untraced_advance (o : Opcode) : s.untraced.advance o = (s.advance o).untraced := rfl

@[simp] theorem State.untraced_setSpace (sp : Space) (m : Memory) :
    s.untraced.setSpace sp m = (s.setSpace sp m).untraced := by cases sp <;> rfl

/-- The host output is kept: a trap event is no trace event. -/
@[simp] theorem State.untraced_emit_trapOut (v : Word) : s.untraced.emit (.trapOut v) = (s.emit (.trapOut v)).untraced := by
  simp only [State.untraced, State.emit, List.filter_append]; rfl

/-- A trace event leaves no mark once the trace is taken away. -/
theorem State.emit_trace_untraced {e : Event} (h : e.isTrace = true) : (s.emit e).untraced = s.untraced := by
  simp [State.untraced, State.emit, h]

end

/-! ### The operations -/

/-- Two computations that commute with `g` and then `h`, bound together. -/
theorem bind_map_comm {ε α α' β β' : Type} {x : Except ε α} {x' : Except ε α'} {f : α → Except ε β}
    {f' : α' → Except ε β'} {g : α → α'} {h : β → β'} (hx : x' = x.map g) (hf : ∀ a, f' (g a) = (f a).map h) :
    (x' >>= f') = (x >>= f).map h := by
  subst hx
  cases x with
  | error e => rfl
  | ok a => exact hf a

/-- A test that comes out the same, before two branches that commute with `h`. -/
theorem ite_map_comm {ε α β : Type} {c c' : Prop} [Decidable c] [Decidable c'] {x y : Except ε α} {x' y' : Except ε β}
    {h : α → β} (hc : c' ↔ c) (hx : x' = x.map h) (hy : y' = y.map h) :
    (if c' then x' else y') = (if c then x else y).map h := by
  by_cases hp : c
  · rw [if_pos hp, if_pos (hc.2 hp), hx]
  · rw [if_neg hp, if_neg (fun h' => hp (hc.1 h')), hy]

/-- A body of pseudocode does not see the trace: it commutes with taking it away. -/
def IgnoresTrace (body : State → Except Stop State) : Prop :=
  ∀ s, body s.untraced = (body s).map State.untraced

section
variable (s : State)

theorem readCell_untraced (sp : Space) (i : Int) : readCell sp i s.untraced = readCell sp i s := by
  simp only [readCell, State.untraced_bound, State.untraced_space]

/-- After reading a cell only the rest of a body has to ignore the trace. -/
theorem readCell_bind_untraced {sp : Space} {i : Int} {f f' : Word → Except Stop State}
    (hf : ∀ w, f' w = (f w).map State.untraced) :
    (readCell sp i s.untraced >>= f') = (readCell sp i s >>= f).map State.untraced := by
  rw [readCell_untraced]
  cases readCell sp i s with
  | error e => rfl
  | ok w => exact hf w

theorem writeCell_ignoresTrace (sp : Space) (i : Int) (v : Word) : IgnoresTrace (writeCell sp i v) := by
  intro s
  simp only [writeCell, State.untraced_bound, State.untraced_space, State.untraced_setSpace]
  split <;> rfl

theorem push_ignoresTrace (v : Word) : IgnoresTrace (push v) := fun s =>
  ite_map_comm Iff.rfl rfl (writeCell_ignoresTrace .os (s16 s.sp + 1) v (s.setSp (s16 s.sp + 1)))

theorem pop_untraced : pop s.untraced = (pop s).map (Prod.map id State.untraced) := by
  refine ite_map_comm Iff.rfl rfl ?_
  rw [State.untraced_sp, readCell_untraced]
  cases readCell .os (s16 s.sp) s <;> rfl

theorem adjustSp_untraced (n : Int) : adjustSp n s.untraced = (adjustSp n s).map State.untraced :=
  ite_map_comm Iff.rfl rfl (ite_map_comm Iff.rfl rfl rfl)

theorem binary_ignoresTrace (f : Word → Word → Word) : IgnoresTrace (binary f) := fun s =>
  bind_map_comm (pop_untraced s) fun (b, s₁) =>
  bind_map_comm (pop_untraced s₁) fun (a, s₂) => push_ignoresTrace (f a b) s₂

theorem popBranch_ignoresTrace (f : Word → Bool) (a : Word) : IgnoresTrace (popBranch f a) := by
  refine fun s => bind_map_comm (pop_untraced s) fun (v, s₁) => ?_
  simp only [Prod.map, id]
  cases f v <;> rfl

theorem ldfBody_ignoresTrace (a : Word) : IgnoresTrace (ldfBody a) := fun s =>
  ite_map_comm Iff.rfl (readCell_bind_untraced s fun v => push_ignoresTrace v s) rfl

theorem ldhBody_ignoresTrace (a : Word) : IgnoresTrace (ldhBody a) := fun s =>
  ite_map_comm Iff.rfl (readCell_bind_untraced s fun v => push_ignoresTrace v s) rfl

theorem stfBody_ignoresTrace (a : Word) : IgnoresTrace (stfBody a) := fun s =>
  bind_map_comm (pop_untraced s) fun (v, s₁) =>
  ite_map_comm Iff.rfl (writeCell_ignoresTrace .os (frameIndex s₁ a) v s₁) rfl

theorem sthBody_ignoresTrace (a : Word) : IgnoresTrace (sthBody a) := fun s =>
  bind_map_comm (pop_untraced s) fun (v, s₁) =>
  ite_map_comm Iff.rfl (writeCell_ignoresTrace .heap (heapAddress a) v s₁) rfl

theorem trapBody_ignoresTrace (c : Word) : IgnoresTrace (trapBody c) := fun s =>
  ite_map_comm Iff.rfl rfl <|
  bind_map_comm (pop_untraced s) fun (v, s₁) => congrArg Except.ok (State.untraced_emit_trapOut s₁ v)

theorem callBody_ignoresTrace (a n : Word) : IgnoresTrace (callBody a n) := fun s =>
  ite_map_comm Iff.rfl rfl <|
  bind_map_comm (writeCell_ignoresTrace .ls (s16 s.lsp + 1) n s) fun s₁ =>
  bind_map_comm (writeCell_ignoresTrace .ls (s16 s.lsp + 2) (word (s16 s.fp)) s₁) fun s₂ =>
  bind_map_comm (writeCell_ignoresTrace .ls (s16 s.lsp + 3) (word (s16 s.ip)) s₂) fun _ => rfl

theorem collapse_ignoresTrace (n : Int) (rv : Word) : IgnoresTrace (collapse n rv) := fun s =>
  ite_map_comm Iff.rfl rfl (ite_map_comm Iff.rfl rfl (push_ignoresTrace rv (s.setSp n)))

theorem retBody_ignoresTrace : IgnoresTrace retBody := fun s =>
  ite_map_comm Iff.rfl rfl <| ite_map_comm Iff.rfl rfl <|
  bind_map_comm (pop_untraced s) fun (rv, s₁) =>
  readCell_bind_untraced s₁ fun retIp => readCell_bind_untraced s₁ fun savedFp => readCell_bind_untraced s₁ fun n =>
  collapse_ignoresTrace (s16 s₁.sp - countOf n) rv
    (((s₁.setLsp (s16 s₁.lsp - 3)).setIp (s16 retIp)).setFp (s16 savedFp))

/-- No instruction's pseudocode sees the trace (R110). -/
theorem bodyOf_ignoresTrace (i : Instr) : IgnoresTrace (bodyOf i) := by
  cases i with
  | nop => exact fun _ => rfl
  | ldi v => exact push_ignoresTrace v
  | ldf a => exact ldfBody_ignoresTrace a
  | ldh a => exact ldhBody_ignoresTrace a
  | stf a => exact stfBody_ignoresTrace a
  | sth a => exact sthBody_ignoresTrace a
  | drop n => exact fun s => adjustSp_untraced s (s16 s.sp - countOf n)
  | res n => exact fun s => adjustSp_untraced s (s16 s.sp + countOf n)
  | lt | eq | add | sub | mul => simp only [bodyOf]; exact binary_ignoresTrace _
  | br a => exact fun _ => rfl
  | brt a => exact popBranch_ignoresTrace _ a
  | brf a => exact popBranch_ignoresTrace _ a
  | trap c => exact trapBody_ignoresTrace c
  | call a n => exact callBody_ignoresTrace a n
  | ret => exact retBody_ignoresTrace
  | halt => exact fun _ => rfl

/-! ### One step, and any number of steps -/

theorem conclude_untraced (r : Except Stop State) :
    conclude s.untraced (r.map State.untraced) = mapNext State.untraced (conclude s r) := by
  match r with
  | .ok _ => rfl
  | .error (.raise _ _) => rfl
  | .error (.model _) => rfl

theorem exec_untraced (i : Instr) : exec i s.untraced = mapNext State.untraced (exec i s) := by
  rw [exec_eq_runBody, exec_eq_runBody, runBody, runBody, State.untraced_advance, bodyOf_ignoresTrace, conclude_untraced]

theorem fetchWords_untraced (n j : Nat) : fetchWords n j s.untraced = fetchWords n j s := by
  induction n generalizing j with
  | zero => rfl
  | succ n ih => simp only [fetchWords, State.untraced_progLen, State.untraced_prog, ih]

theorem fetch_untraced : fetch s.untraced = fetch s := by
  have hmiss : ∀ j, missingWord j s.untraced = missingWord j s := fun _ => rfl
  simp only [fetch, fetchDecode, fetchWords_untraced, hmiss, State.untraced_ip, State.untraced_progLen,
    State.untraced_params]

theorem openStep_of_untraced (i : Instr) : openStep i s.untraced = s.untraced := rfl

theorem untraced_openStep (i : Instr) : (openStep i s).untraced = s.untraced := by
  unfold openStep
  split
  · exact State.emit_trace_untraced s rfl
  · rfl

theorem postStep_of_untraced : postStep s.untraced = s.untraced := by
  unfold postStep
  exact if_neg fun h => Bool.false_ne_true h.1

theorem untraced_postStep : (postStep s).untraced = s.untraced := by
  unfold postStep
  split
  · exact State.emit_trace_untraced s rfl
  · rfl

theorem closeStep_untraced (r : Host.Outcome State Fault Refusal) :
    closeStep (mapNext State.untraced r) = mapNext State.untraced (closeStep r) := by
  cases r with
  | next t => simp only [mapNext, closeStep, postStep_of_untraced, untraced_postStep]
  | fault f => rfl
  | refused x => rfl

/-- The step of a state without its trace is the state's own step without the trace. -/
theorem step_untraced : step s.untraced = mapNext State.untraced (step s) := by
  by_cases hr : s.status = .running
  · have hr' : s.untraced.status = .running := hr
    cases hf : fetch s with
    | ended =>
      rw [step_of_ended hr hf, step_of_ended hr' ((fetch_untraced s).trans hf)]
      rfl
    | stopped r =>
      rw [step_of_stopped hr hf, step_of_stopped hr' ((fetch_untraced s).trans hf)]
      exact conclude_untraced s (.error r)
    | decoded i =>
      rw [step_of_decoded hr hf, step_of_decoded hr' ((fetch_untraced s).trans hf)]
      calc closeStep (exec i (openStep i s.untraced))
          = closeStep (exec i (openStep i s).untraced) := by rw [openStep_of_untraced, untraced_openStep]
        _ = mapNext State.untraced (closeStep (exec i (openStep i s))) := by rw [exec_untraced, closeStep_untraced]
  · have hr' : s.untraced.status ≠ .running := hr
    rw [step_of_not_running hr, step_of_not_running hr']
    rfl

theorem run_untraced (k : Nat) :
    Host.Core.run Sys2Proof.core k s.untraced = mapNext State.untraced (Host.Core.run Sys2Proof.core k s) := by
  induction k generalizing s with
  | zero => rfl
  | succ k ih =>
    have hstep : Sys2Proof.core.step s.untraced = mapNext State.untraced (Sys2Proof.core.step s) := step_untraced s
    simp only [Host.Core.run, hstep]
    cases Sys2Proof.core.step s with
    | next t => exact ih t
    | fault f => rfl
    | refused x => rfl

end

end Sys2Proof.Machine
end

section
/-! PROOFS. What a step appends to the two output channels, and in which order (spec/10_state.md R40). -/

namespace Sys2Proof.Machine

def AtMostOnePreStep (pre : List Event) : Prop := pre = [] ∨ ∃ ip op o ws, pre = [Event.preStep ip op o ws]

/-- The host output of one instruction: nothing, or the one word a TRAP 1 emits (spec/46_trap.md R180). -/
def AtMostOneTrapOut (out : List Event) : Prop := out = [] ∨ ∃ v, out = [Event.trapOut v]

def AtMostOnePostStep (post : List Event) : Prop := post = [] ∨ ∃ st, post = [Event.postStep st]

/-- From `s` to `t` at most one event of each kind is appended, in the order of R40. -/
def AppendsInOrder (s t : State) : Prop :=
  ∃ pre out post : List Event, t.channel = s.channel ++ (pre ++ out ++ post) ∧
    AtMostOnePreStep pre ∧ AtMostOneTrapOut out ∧ AtMostOnePostStep post

theorem appendsInOrder_of_channel_eq {s t : State} (h : t.channel = s.channel) : AppendsInOrder s t :=
  ⟨[], [], [], h.trans (List.append_nil _).symm, .inl rfl, .inl rfl, .inl rfl⟩

section
variable {s t : State}

theorem collapse_writes {n : Int} {rv : Word} (h : collapse n rv s = .ok t) :
    ∃ sp os, t = { s with sp := sp, os := os } := by
  unfold collapse at h
  split at h
  · cases h
  split at h
  · cases h
  · exact ⟨_, _, (push_ok h).2⟩

/-- What RET writes, under any parameters: the cursors and the operand stack (R192). -/
theorem retBody_writes (h : retBody s = .ok t) :
    ∃ ip fp sp lsp os, t = { s with ip := ip, fp := fp, sp := sp, lsp := lsp, os := os } := by
  unfold retBody at h
  split at h
  · cases h
  split at h
  · cases h
  obtain ⟨⟨rv, s₁⟩, hpop, h⟩ := bind_eq_ok h
  obtain ⟨retIp, -, h⟩ := bind_eq_ok h
  obtain ⟨savedFp, -, h⟩ := bind_eq_ok h
  obtain ⟨n, -, hcol⟩ := bind_eq_ok h
  obtain ⟨-, -, rfl⟩ := pop_ok hpop
  obtain ⟨sp, os, rfl⟩ := collapse_writes hcol
  exact ⟨_, _, _, _, _, rfl⟩

/-- Only TRAP 1 writes a channel. -/
theorem bodyOf_channel (i : Instr) (h : bodyOf i s = .ok t) (hi : i ≠ .trap 0x0001#16) : t.channel = s.channel := by
  cases i with
  | nop => injection h with h; rw [← h]
  | ldi v => obtain ⟨-, rfl⟩ := push_ok h; rfl
  | ldf a => obtain ⟨-, -, v, -, rfl⟩ := ldfBody_ok h; rfl
  | ldh a => obtain ⟨-, -, v, -, rfl⟩ := ldhBody_ok h; rfl
  | stf a => obtain ⟨-, -, v, -, rfl⟩ := stfBody_ok h; rfl
  | sth a => obtain ⟨-, -, v, -, rfl⟩ := sthBody_ok h; rfl
  | drop n => obtain ⟨-, -, rfl⟩ := adjustSp_ok h; rfl
  | res n => obtain ⟨-, -, rfl⟩ := adjustSp_ok h; rfl
  | lt | eq | add | sub | mul =>
    simp only [bodyOf] at h
    obtain ⟨-, -, a, b, -, -, rfl⟩ := binary_ok h
    rfl
  | br a => injection h with h; rw [← h, State.setIp_channel]
  | brt a => obtain ⟨-, v, -, rfl⟩ := popBranch_ok h; rfl
  | brf a => obtain ⟨-, v, -, rfl⟩ := popBranch_ok h; rfl
  | trap c => exact absurd (congrArg Instr.trap (trapBody_ok h).1) hi
  | call a n => obtain ⟨-, -, rfl⟩ := callBody_ok h; rfl
  | ret => obtain ⟨_, _, _, _, _, rfl⟩ := retBody_writes h; rfl
  | halt => injection h with h; rw [← h, State.setStatus_channel]

theorem exec_channel_of_not_trap {i : Instr} (h : exec i s = .next t) (hi : i ≠ .trap 0x0001#16) :
    t.channel = s.channel := by
  rcases exec_next h with h | ⟨c, x, -, rfl⟩
  · rw [bodyOf_channel i h hi, State.advance_channel]
  · exact takeFault_channel s c x

/-- Every instruction appends at most one output word to the channel. -/
theorem exec_channel {i : Instr} (h : exec i s = .next t) :
    ∃ out, t.channel = s.channel ++ out ∧ AtMostOneTrapOut out := by
  by_cases hi : i = .trap 0x0001#16
  · subst hi
    rcases exec_next h with h | ⟨c, x, -, rfl⟩
    · obtain ⟨-, -, v, -, rfl⟩ := trapBody_ok h
      exact ⟨[.trapOut v], rfl, .inr ⟨v, rfl⟩⟩
    · exact ⟨[], (List.append_nil _).symm, .inl rfl⟩
  · exact ⟨[], by rw [exec_channel_of_not_trap h hi, List.append_nil], .inl rfl⟩

end

theorem openStep_channel (i : Instr) (s : State) :
    (openStep i s).channel = s.channel ++ if s.traceEn then [preStepEvent i s] else [] := by
  unfold openStep
  split
  · rfl
  · exact (List.append_nil _).symm

theorem postStep_channel (t : State) :
    (postStep t).channel = t.channel ++ if t.traceEn ∧ t.status = .running then [.postStep (stackDump t)] else [] := by
  unfold postStep
  split
  · rfl
  · exact (List.append_nil _).symm

/-- The event before an instruction, its own and the one after it stand in this order. -/
theorem postStep_exec_appendsInOrder {i : Instr} {s u : State} (h : exec i (openStep i s) = .next u) :
    AppendsInOrder s (postStep u) := by
  obtain ⟨out, hout, hone⟩ := exec_channel h
  refine ⟨if s.traceEn then [preStepEvent i s] else [], out,
    if u.traceEn ∧ u.status = .running then [.postStep (stackDump u)] else [], ?_, ?_, hone, ?_⟩
  · rw [postStep_channel, hout, openStep_channel, List.append_assoc, List.append_assoc, List.append_assoc]
  · split
    · exact .inr ⟨_, _, _, _, rfl⟩
    · exact .inl rfl
  · split
    · exact .inr ⟨_, rfl⟩
    · exact .inl rfl

theorem step_appendsInOrder {s t : State} (h : step s = .next t) : AppendsInOrder s t := by
  rcases step_next h with ⟨-, rfl⟩ | ⟨-, -, rfl⟩ | ⟨-, c, x, -, rfl⟩ | ⟨-, i, u, -, hu, rfl⟩
  · exact appendsInOrder_of_channel_eq rfl
  · exact appendsInOrder_of_channel_eq (State.setStatus_channel s .ended)
  · exact appendsInOrder_of_channel_eq (takeFault_channel s c x)
  · exact postStep_exec_appendsInOrder hu

/-- Settles O23: the trace is taken away before a run or after it, so states that agree without it have runs that do. -/
theorem traceIsObservationOnly : Obligations.TraceIsObservationOnly := by
  refine ⟨fun s s' h k => ?_, fun s t h => step_appendsInOrder h⟩
  have hrun : Host.Core.run Sys2Proof.core k s.untraced = Host.Core.run Sys2Proof.core k s'.untraced := by rw [h]
  exact (run_untraced s k).symm.trans (hrun.trans (run_untraced s' k))

end Sys2Proof.Machine
end

section
/-! PROOFS. CALL and RET (spec/47_call_return.md): the linkage record a CALL pushes, the RET that takes it back, and the stack
balance of the two (R190 to R192, R195). -/

namespace Sys2Proof.Machine

/-! ### The linkage record -/

/-- A linkage stack with LSP = `l` and one record pushed: argument count, caller's FP, return address (R191). -/
def Memory.pushRecord (m : Memory) (l : Int) (nargs savedFp retIp : Word) : Memory :=
  ((m.write (l + 1).toNat nargs).write (l + 2).toNat savedFp).write (l + 3).toNat retIp

section
variable (m : Memory) {l : Int} (nargs savedFp retIp : Word)

theorem Memory.read_pushRecord_nargs (h : -1 ≤ l) :
    (m.pushRecord l nargs savedFp retIp).read (l + 1).toNat = some nargs := by
  unfold Memory.pushRecord
  rw [Memory.read_write_other _ _ (by omega), Memory.read_write_other _ _ (by omega), Memory.read_write_self]

theorem Memory.read_pushRecord_savedFp (h : -1 ≤ l) :
    (m.pushRecord l nargs savedFp retIp).read (l + 2).toNat = some savedFp := by
  unfold Memory.pushRecord
  rw [Memory.read_write_other _ _ (by omega), Memory.read_write_self]

theorem Memory.read_pushRecord_retIp : (m.pushRecord l nargs savedFp retIp).read (l + 3).toNat = some retIp :=
  Memory.read_write_self _ _ _

theorem Memory.read_pushRecord_other {k : Nat} (h : -1 ≤ l) (h₁ : (k : Int) ≠ l + 1) (h₂ : (k : Int) ≠ l + 2)
    (h₃ : (k : Int) ≠ l + 3) : (m.pushRecord l nargs savedFp retIp).read k = m.read k := by
  unfold Memory.pushRecord
  rw [Memory.read_write_other _ _ (by omega), Memory.read_write_other _ _ (by omega),
    Memory.read_write_other _ _ (by omega)]

end

/-! ### Completing CALL and RET -/

section
variable {s : State} {rv n savedFp retIp : Word}

/-- CALL's body completes when three linkage cells are free (R190). -/
theorem callBody_eq {a : Word} (lo : -1 ≤ s16 s.lsp) (hi : s16 s.lsp + 3 ≤ (s.params.linkCap : Int) - 1) :
    callBody a n s = .ok { s with
      ip := a, fp := s.sp, lsp := word (s16 s.lsp + 3), ls := s.ls.pushRecord (s16 s.lsp) n s.fp s.ip } := by
  have hroom : ∀ k : Int, 1 ≤ k → k ≤ 3 → inRange s.params.linkCap (s16 s.lsp + k) :=
    fun k hk₁ hk₃ => ⟨by omega, by omega⟩
  unfold callBody
  rw [if_neg (by omega), writeCell_eq (hroom 1 (by omega) (by omega)), ok_bind,
    writeCell_eq (hroom 2 (by omega) (by omega)), ok_bind, writeCell_eq (hroom 3 (by omega) (by omega)), ok_bind]
  simp only [State.setIp, State.setFp, targetOf, word_s16]
  rfl

/-- R190 for the whole state: the return address is the index after CALL's three words. -/
theorem exec_call_eq {a : Word} (lo : -1 ≤ s16 s.lsp) (hi : s16 s.lsp + 3 ≤ (s.params.linkCap : Int) - 1) :
    exec (.call a n) s = .next { s with
      ip := a, fp := s.sp, lsp := word (s16 s.lsp + 3)
      ls := s.ls.pushRecord (s16 s.lsp) n s.fp (word (s16 s.ip + 3)) } :=
  congrArg (conclude s) (callBody_eq (s := s.advance .call) lo hi)

/-- A collapse to a cell within the stack completes; `m` is the index that cell will have (R192). -/
theorem collapse_eq {m : Int} (cap : s.params.stackCap ≤ 32767) (hm : inRange s.params.stackCap m) :
    collapse (m - 1) rv s = .ok { s with sp := word m, os := s.os.write m.toNat rv } := by
  have hlow := hm.1
  have hhigh := hm.2
  have hsp : s16 (s.setSp (m - 1)).sp + 1 = m := by
    rw [State.setSp_sp, s16_word (by omega) (by omega)]; omega
  unfold collapse
  rw [if_neg (by omega), if_neg (by omega), push_eq (by rw [hsp]; exact hm), hsp]
  rfl

/-- The states in which RET completes, with the value and the record it reads: a record, a balanced frame, a written top cell
and a collapse within the stack (R192). -/
structure ReturnsWith (s : State) (rv n savedFp retIp : Word) : Prop where
  lsp_low : 2 ≤ s16 s.lsp
  lsp_high : s16 s.lsp ≤ (s.params.linkCap : Int) - 1
  balanced : ¬ imbalanced s
  sp_inRange : inRange s.params.stackCap (s16 s.sp)
  read_top : s.os.read (s16 s.sp).toNat = some rv
  read_nargs : s.ls.read (s16 s.lsp - 2).toNat = some n
  read_savedFp : s.ls.read (s16 s.lsp - 1).toNat = some savedFp
  read_retIp : s.ls.read (s16 s.lsp).toNat = some retIp
  collapse_inRange : inRange s.params.stackCap (s16 s.sp - s16 n)

/-- RET's conditions do not depend on IP. -/
theorem ReturnsWith.advance (h : ReturnsWith s rv n savedFp retIp) (o : Opcode) :
    ReturnsWith (s.advance o) rv n savedFp retIp := { h with }

/-- The converse of `retBody_ok`. -/
theorem retBody_eq (cap : s.params.stackCap ≤ 32767) (h : ReturnsWith s rv n savedFp retIp) :
    retBody s = .ok { s with
      ip := retIp, fp := savedFp, lsp := word (s16 s.lsp - 3)
      sp := word (s16 s.sp - s16 n), os := s.os.write (s16 s.sp - s16 n).toNat rv } := by
  obtain ⟨hlow, hhigh, hbal, hsp, htop, hn, hfp, hip, hm⟩ := h
  have hlink : ∀ {i : Int} {w : Word}, 0 ≤ i → i ≤ s16 s.lsp → s.ls.read i.toNat = some w →
      readCell .ls i (s.setSp (s16 s.sp - 1)) = .ok w :=
    fun h₀ h hw => readCell_eq (sp := .ls) ⟨h₀, h.trans hhigh⟩ hw
  have hpopped : s16 (word (s16 s.sp - 1)) - countOf n = s16 s.sp - s16 n - 1 := by
    rw [s16_word (by have := hsp.1; omega) (by have := hsp.2; omega), countOf]; omega
  unfold retBody
  rw [if_neg (by omega), if_neg hbal, show pop s = .ok (rv, s.setSp (s16 s.sp - 1)) from pop_eq hsp htop, ok_bind]
  simp only [State.setSp_sp, State.setSp_lsp]
  rw [hlink (by omega) le_rfl hip, ok_bind, hlink (by omega) (by omega) hfp, ok_bind, hlink (by omega) (by omega) hn,
    ok_bind, hpopped]
  simp only [State.setIp, State.setFp, word_s16]
  exact collapse_eq (rv := rv) cap hm

/-- R192 for the whole state. -/
theorem exec_ret_eq (cap : s.params.stackCap ≤ 32767) (h : ReturnsWith s rv n savedFp retIp) :
    exec .ret s = .next { s with
      ip := retIp, fp := savedFp, lsp := word (s16 s.lsp - 3)
      sp := word (s16 s.sp - s16 n), os := s.os.write (s16 s.sp - s16 n).toNat rv } :=
  congrArg (conclude s) (retBody_eq (s := s.advance .ret) cap (h.advance .ret))

/-- The record a CALL pushed at LSP = `l`, kept up to a RET with one value above the anchor, is the one that RET reads. -/
theorem returnsWith_of_pushRecord {l : Int} {m : Memory} (hlsp : s16 s.lsp = l + 3) (lo : -1 ≤ l)
    (hi : l + 3 ≤ (s.params.linkCap : Int) - 1)
    (hrec : ∀ k : Nat, l < (k : Int) → (k : Int) ≤ l + 3 → s.ls.read k = (m.pushRecord l n savedFp retIp).read k)
    (hbal : s16 s.sp = s16 s.fp + 1) (hsp : inRange s.params.stackCap (s16 s.sp))
    (htop : s.os.read (s16 s.sp).toNat = some rv) (hm : inRange s.params.stackCap (s16 s.sp - s16 n)) :
    ReturnsWith s rv n savedFp retIp where
  lsp_low := by omega
  lsp_high := by omega
  balanced := fun himb => himb.2 hbal
  sp_inRange := hsp
  read_top := htop
  read_nargs := by
    rw [show s16 s.lsp - 2 = l + 1 by omega, hrec _ (by omega) (by omega), m.read_pushRecord_nargs n savedFp retIp lo]
  read_savedFp := by
    rw [show s16 s.lsp - 1 = l + 2 by omega, hrec _ (by omega) (by omega), m.read_pushRecord_savedFp n savedFp retIp lo]
  read_retIp := by rw [hlsp, hrec _ (by omega) (by omega), m.read_pushRecord_retIp n savedFp retIp]
  collapse_inRange := hm

end

/-! ### The statements -/

/-- Settles O51: the completed CALL's linkage stack is the caller's with one record pushed. -/
theorem callRecordLayout : Obligations.CallRecordLayout := by
  rintro a n s L rfl ⟨-, -, linkCap, -⟩ lo hi
  refine ⟨_, exec_call_eq lo hi, Memory.read_pushRecord_nargs _ _ _ _ lo,
    Memory.read_pushRecord_savedFp _ _ _ _ lo, Memory.read_pushRecord_retIp _ _ _ _,
    s16_word (by omega) (by omega), fun k => Memory.read_pushRecord_other _ _ _ _ lo⟩

/-- Settles O54: the callee's frame is anchored at σ + s16(n), and RET collapses from one above it by s16(n), onto σ + 1. -/
theorem callAndReturnBalanceTheStack : Obligations.CallAndReturnBalanceTheStack := by
  intro c c' u a n rv σ hwf hσ hn hsp lo hi ipLo ipHi hcall hparams hfp hlsp hrec hbal hcap htop
  obtain ⟨-, stackCap, linkCap, -⟩ := hwf
  rw [exec_call_eq lo hi] at hcall
  injection hcall with hc'
  subst hc'
  have hpushed : s16 (word (s16 c.lsp + 3)) = s16 c.lsp + 3 := s16_word (by omega) (by omega)
  have hrecord : s16 u.lsp = s16 c.lsp + 3 := (congrArg s16 hlsp).trans hpushed
  have hanchor : s16 u.fp = σ + s16 n := (congrArg s16 hfp).trans hsp
  have hcollapse : s16 u.sp - s16 n = σ + 1 := by omega
  have hreturns : ReturnsWith u rv n c.fp (word (s16 c.ip + 3)) :=
    returnsWith_of_pushRecord hrecord lo (hparams ▸ hi) (fun k h₁ h₂ => hrec k h₁ (hpushed.symm ▸ h₂)) hbal
      ⟨by omega, hcap⟩ htop ⟨by omega, by omega⟩
  have hret := exec_ret_eq (hparams ▸ stackCap) hreturns
  rw [hcollapse, hrecord, add_sub_cancel_right, word_s16] at hret
  have hdepth : s16 (word (σ + 1)) = σ + 1 := s16_word (by omega) (by rw [hparams] at hcap; omega)
  exact ⟨_, hret, hdepth, by rw [hdepth]; omega, Memory.read_write_self _ _ _, rfl, rfl, s16_word (by omega) ipHi,
    fun k hk => Memory.read_write_other _ _ (by omega)⟩

end Sys2Proof.Machine
end

section
/-! PROOFS. A faulted step is a taken fault: no completed pseudocode ends FAULTED, so the writes of a faulting instruction are
gone (spec/60_exceptions.md R215, R216). -/

namespace Sys2Proof.Machine

section
variable {s t : State}

/-- Only HALT writes STATUS when it completes (spec/48_halt.md R200). -/
theorem bodyOf_status (i : Instr) (h : bodyOf i s = .ok t) (hi : i ≠ .halt) : t.status = s.status := by
  cases i with
  | nop => injection h with h; rw [← h]
  | ldi v => obtain ⟨-, rfl⟩ := push_ok h; rfl
  | ldf a => obtain ⟨-, -, v, -, rfl⟩ := ldfBody_ok h; rfl
  | ldh a => obtain ⟨-, -, v, -, rfl⟩ := ldhBody_ok h; rfl
  | stf a => obtain ⟨-, -, v, -, rfl⟩ := stfBody_ok h; rfl
  | sth a => obtain ⟨-, -, v, -, rfl⟩ := sthBody_ok h; rfl
  | drop n | res n => obtain ⟨-, -, rfl⟩ := adjustSp_ok h; rfl
  | lt | eq | add | sub | mul =>
    simp only [bodyOf] at h
    obtain ⟨-, -, a, b, -, -, rfl⟩ := binary_ok h
    rfl
  | br a => injection h with h; rw [← h, State.setIp_status]
  | brt a | brf a => obtain ⟨-, v, -, rfl⟩ := popBranch_ok h; rfl
  | trap c => obtain ⟨-, -, v, -, rfl⟩ := trapBody_ok h; rfl
  | call a n => obtain ⟨-, -, rfl⟩ := callBody_ok h; rfl
  | ret => obtain ⟨_, _, _, _, _, rfl⟩ := retBody_writes h; rfl
  | halt => exact absurd rfl hi

theorem bodyOf_status_ne_faulted {i : Instr} (h : bodyOf i s = .ok t) (hs : s.status = .running) :
    t.status ≠ .faulted := by
  by_cases hi : i = .halt
  · subst hi
    injection h with h
    rw [← h, State.setStatus_status]
    decide
  · rw [bodyOf_status i h hi, hs]
    decide

/-- An instruction that answers FAULTED raised a fault, taken from the state it began in. -/
theorem exec_faulted {i : Instr} (h : exec i s = .next t) (hs : s.status = .running) (ht : t.status = .faulted) :
    ∃ c x, bodyOf i (s.advance i.opcode) = .error (.raise c x) ∧ t = takeFault c x s := by
  rcases exec_next h with hok | hraise
  · exact absurd ht (bodyOf_status_ne_faulted hok hs)
  · exact hraise

@[simp] theorem openStep_status (i : Instr) (s : State) : (openStep i s).status = s.status := by
  unfold openStep; split <;> rfl

@[simp] theorem postStep_status (t : State) : (postStep t).status = t.status := by
  unfold postStep; split <;> rfl

/-- There is no post-step event after HALT or a fault (R109). -/
theorem postStep_of_not_running (h : t.status ≠ .running) : postStep t = t := by
  unfold postStep; rw [if_neg fun hc => h hc.2]

/-- Opening a step writes nothing but the channel. -/
theorem openStep_eq (i : Instr) (s : State) :
    openStep i s = { s with channel := s.channel ++ if s.traceEn then [preStepEvent i s] else [] } := by
  rw [← openStep_channel]
  unfold openStep; split <;> rfl

/-- A running step that answers FAULTED took a fault either in the fetch or in an instruction it had opened. -/
theorem step_faulted (h : step s = .next t) (hs : s.status = .running) (ht : t.status = .faulted) :
    (∃ c x, t = takeFault c x s) ∨ ∃ i c x, t = takeFault c x (openStep i s) := by
  rcases step_next h with ⟨hn, -⟩ | ⟨-, -, rfl⟩ | ⟨-, c, x, -, ht'⟩ | ⟨-, i, u, -, hu, rfl⟩
  · exact absurd hs hn
  · cases ht
  · exact .inl ⟨c, x, ht'⟩
  · rw [postStep_status] at ht
    obtain ⟨c, x, -, rfl⟩ := exec_faulted hu ((openStep_status i s).trans hs) ht
    exact .inr ⟨i, c, x, postStep_of_not_running (by rw [ht]; decide)⟩

end

/-- Settles O14: the state the fault is taken from is the step's first one, with the pre-step event when the step was opened. -/
theorem faultsArePrecise : Obligations.FaultsArePrecise := by
  intro s t hs h ht
  rcases step_faulted h hs ht with ⟨c, x, rfl⟩ | ⟨i, c, x, rfl⟩
  · exact ⟨[], .inl rfl, by rw [List.append_nil]; rfl⟩
  · refine ⟨if s.traceEn then [preStepEvent i s] else [], ?_, by rw [openStep_eq]; rfl⟩
    split
    · exact .inr ⟨_, _, _, rfl⟩
    · exact .inl rfl

end Sys2Proof.Machine
end

section
/-! PROOFS. Which faults each operation and each instruction can raise (spec/60_exceptions.md R211, R214). -/

namespace Sys2Proof.Machine

/-- If `r` raises a fault, its cause is one of `cs`. The model's own stops are no faults. -/
def RaisesOnly {α : Type} (r : Except Stop α) (cs : List Cause) : Prop := ∀ c x, r = .error (.raise c x) → c ∈ cs

/-! ### How pseudocode is put together -/

section
variable {α β : Type} {cs ds : List Cause}

theorem RaisesOnly.ok (a : α) (cs : List Cause) : RaisesOnly (.ok a) cs := fun _ _ h => by cases h

theorem RaisesOnly.raise {c : Cause} (x : Int) (hc : c ∈ cs) : RaisesOnly (.error (.raise c x) : Except Stop α) cs := by
  intro c' x' h
  cases h
  exact hc

theorem RaisesOnly.mono {r : Except Stop α} (h : RaisesOnly r cs) (hsub : cs ⊆ ds) : RaisesOnly r ds :=
  fun c x hr => hsub (h c x hr)

theorem RaisesOnly.bind {r : Except Stop α} {f : α → Except Stop β} (hr : RaisesOnly r cs)
    (hf : ∀ a, r = .ok a → RaisesOnly (f a) cs) : RaisesOnly (r >>= f) cs := by
  intro c x h
  rcases bind_eq_error h with hr' | ⟨a, ha, hfa⟩
  · exact hr c x hr'
  · exact hf a ha c x hfa

theorem RaisesOnly.ite {p : Prop} [Decidable p] {r r' : Except Stop α} (hr : p → RaisesOnly r cs)
    (hr' : ¬ p → RaisesOnly r' cs) : RaisesOnly (if p then r else r') cs := by
  split
  · exact hr ‹_›
  · exact hr' ‹_›

end

/-! ### The shared operations -/

section
variable {s t : State}

theorem readCell_raisesOnly {sp : Space} {i : Int} {cs : List Cause} : RaisesOnly (readCell sp i s) cs := by
  intro c x h
  rcases readCell_error h with ⟨-, -, h⟩ | ⟨-, h⟩ <;> cases h

theorem writeCell_raisesOnly {sp : Space} {i : Int} {v : Word} {cs : List Cause} :
    RaisesOnly (writeCell sp i v s) cs := by
  intro c x h
  cases (writeCell_error h).2

theorem push_raisesOnly (v : Word) (s : State) : RaisesOnly (push v s) [.stackOverflow] :=
  .ite (fun _ => .raise _ (by decide)) fun _ => writeCell_raisesOnly

theorem pop_raisesOnly (s : State) : RaisesOnly (pop s) [.stackUnderflow] :=
  .ite (fun _ => .raise _ (by decide)) fun _ => .bind readCell_raisesOnly fun _ _ => .ok _ _

/-- A push after a pop finds room (R212). -/
theorem push_raisesOnly_of_pop {v : Word} (h : pop s = .ok (v, t)) (w : Word) : RaisesOnly (push w t) [] := by
  obtain ⟨⟨lo, hi⟩, -, rfl⟩ := pop_ok h
  have hsp : s16 (word (s16 s.sp - 1)) = s16 s.sp - 1 := s16_word (by omega) (by have := s16_range s.sp; omega)
  refine .ite (fun hfull => ?_) fun _ => writeCell_raisesOnly
  simp only [hsp] at hfull
  omega

theorem adjustSp_raisesOnly (n : Int) (s : State) : RaisesOnly (adjustSp n s) [.stackUnderflow, .stackOverflow] :=
  .ite (fun _ => .raise _ (by decide)) fun _ => .ite (fun _ => .raise _ (by decide)) fun _ => .ok _ _

theorem binary_raisesOnly (f : Word → Word → Word) (s : State) : RaisesOnly (binary f s) [.stackUnderflow] :=
  .bind (pop_raisesOnly s) fun ⟨_, s₁⟩ _ => .bind (pop_raisesOnly s₁) fun _ h =>
    (push_raisesOnly_of_pop h _).mono (List.nil_subset _)

theorem popBranch_raisesOnly (f : Word → Bool) (a : Word) (s : State) :
    RaisesOnly (popBranch f a s) [.stackUnderflow] :=
  .bind (pop_raisesOnly s) fun _ _ => .ok _ _

/-! ### The instructions -/

theorem ldfBody_raisesOnly (a : Word) (s : State) : RaisesOnly (ldfBody a s) [.frameRange, .stackOverflow] :=
  .ite (fun _ => .bind readCell_raisesOnly fun v _ => (push_raisesOnly v s).mono (by decide))
    fun _ => .raise _ (by decide)

theorem ldhBody_raisesOnly (a : Word) (s : State) : RaisesOnly (ldhBody a s) [.heapRange, .stackOverflow] :=
  .ite (fun _ => .bind readCell_raisesOnly fun v _ => (push_raisesOnly v s).mono (by decide))
    fun _ => .raise _ (by decide)

theorem stfBody_raisesOnly (a : Word) (s : State) : RaisesOnly (stfBody a s) [.stackUnderflow, .frameRange] :=
  .bind ((pop_raisesOnly s).mono (by decide)) fun _ _ =>
    .ite (fun _ => writeCell_raisesOnly) fun _ => .raise _ (by decide)

theorem sthBody_raisesOnly (a : Word) (s : State) : RaisesOnly (sthBody a s) [.stackUnderflow, .heapRange] :=
  .bind ((pop_raisesOnly s).mono (by decide)) fun _ _ =>
    .ite (fun _ => writeCell_raisesOnly) fun _ => .raise _ (by decide)

theorem trapBody_raisesOnly (code : Word) (s : State) : RaisesOnly (trapBody code s) [.unknownTrap, .stackUnderflow] :=
  .ite (fun _ => .raise _ (by decide)) fun _ => .bind ((pop_raisesOnly s).mono (by decide)) fun _ _ => .ok _ _

theorem callBody_raisesOnly (a n : Word) (s : State) : RaisesOnly (callBody a n s) [.linkOverflow] :=
  .ite (fun _ => .raise _ (by decide)) fun _ =>
    .bind writeCell_raisesOnly fun _ _ => .bind writeCell_raisesOnly fun _ _ =>
      .bind writeCell_raisesOnly fun _ _ => .ok _ _

theorem collapse_raisesOnly (n : Int) (rv : Word) (s : State) :
    RaisesOnly (collapse n rv s) [.stackUnderflow, .stackOverflow] :=
  .ite (fun _ => .raise _ (by decide)) fun _ => .ite (fun _ => .raise _ (by decide)) fun _ =>
    (push_raisesOnly rv _).mono (by decide)

theorem retBody_raisesOnly (s : State) :
    RaisesOnly (retBody s) [.linkUnderflow, .frameImbalance, .stackUnderflow, .stackOverflow] :=
  .ite (fun _ => .raise _ (by decide)) fun _ => .ite (fun _ => .raise _ (by decide)) fun _ =>
    .bind ((pop_raisesOnly s).mono (by decide)) fun _ _ =>
      .bind readCell_raisesOnly fun _ _ => .bind readCell_raisesOnly fun _ _ =>
        .bind readCell_raisesOnly fun _ _ => (collapse_raisesOnly _ _ _).mono (by decide)

/-- R211's table, by instruction. -/
theorem bodyOf_raisesOnly (i : Instr) (s : State) : RaisesOnly (bodyOf i s) (raisableCauses i) := by
  cases i with
  | nop | br a | halt => exact .ok _ _
  | ldi v => exact push_raisesOnly v s
  | ldf a => exact ldfBody_raisesOnly a s
  | ldh a => exact ldhBody_raisesOnly a s
  | stf a => exact stfBody_raisesOnly a s
  | sth a => exact sthBody_raisesOnly a s
  | drop n | res n => exact adjustSp_raisesOnly _ s
  | lt | eq | add | sub | mul =>
    simp only [bodyOf]
    exact binary_raisesOnly _ s
  | brt a | brf a => exact popBranch_raisesOnly _ a s
  | trap c => exact trapBody_raisesOnly c s
  | call a n => exact callBody_raisesOnly a n s
  | ret => exact retBody_raisesOnly s

end

/-- Settles O16: a FAULTED answer is a fault the instruction's pseudocode raised. -/
theorem onlyListedFaultsAreRaised : Obligations.OnlyListedFaultsAreRaised := by
  intro i s t hs h ht
  obtain ⟨c, x, hraise, rfl⟩ := exec_faulted h hs ht
  exact bodyOf_raisesOnly i _ c x hraise

end Sys2Proof.Machine
end

section
/-! PROOFS. The decoder and the encoder (spec/30_encoding.md): they invert each other, which words are illegal, and which
operand word a short list misses. -/

namespace Sys2Proof

/-! ### The operand words -/

section
variable {ws rest : List Word} {i : Instr} {o : Opcode}

theorem decodeF1_ok {f : Word → Instr} (h : decodeF1 f ws = .ok (i, rest)) : ∃ a, i = f a ∧ ws = a :: rest := by
  cases ws with
  | nil => cases h
  | cons a ws => cases h; exact ⟨a, rfl, rfl⟩

theorem decodeF2_ok {f : Word → Word → Instr} (h : decodeF2 f ws = .ok (i, rest)) :
    ∃ a b, i = f a b ∧ ws = a :: b :: rest := by
  match ws with
  | [] => cases h
  | [_] => cases h
  | a :: b :: ws => cases h; exact ⟨a, b, rfl, rfl⟩

/-- An instruction's own operand words decode to it. -/
theorem decodeOperands_operands (i : Instr) (rest : List Word) :
    decodeOperands i.opcode (i.operands ++ rest) = .ok (i, rest) := by
  cases i <;> rfl

/-- What an opcode's operand words decode to has that opcode and those operands. -/
theorem decodeOperands_ok (h : decodeOperands o ws = .ok (i, rest)) : i.opcode = o ∧ ws = i.operands ++ rest := by
  cases o with
  | nop | lt | eq | add | sub | mul | ret | halt => cases h; exact ⟨rfl, rfl⟩
  | call => obtain ⟨a, b, rfl, rfl⟩ := decodeF2_ok h; exact ⟨rfl, rfl⟩
  | _ => obtain ⟨a, rfl, rfl⟩ := decodeF1_ok h; exact ⟨rfl, rfl⟩

theorem decodeF1_short {f : Word → Instr} (h : ws.length < 1) : decodeF1 f ws = .error (.truncated (1 + ws.length)) := by
  rw [List.eq_nil_of_length_eq_zero (Nat.lt_one_iff.1 h)]; rfl

theorem decodeF2_short {f : Word → Word → Instr} (h : ws.length < 2) :
    decodeF2 f ws = .error (.truncated (1 + ws.length)) := by
  match ws with
  | [] => rfl
  | [_] => rfl
  | _ :: _ :: ws => simp only [List.length_cons] at h; omega

/-- With fewer operand words than the opcode has, the first missing one is named (R93). -/
theorem decodeOperands_short (h : ws.length < o.ops) :
    decodeOperands o ws = .error (.truncated (1 + ws.length)) := by
  cases o with
  | nop | lt | eq | add | sub | mul | ret | halt => exact absurd h (Nat.not_lt_zero _)
  | call => exact decodeF2_short h
  | _ => exact decodeF1_short h

/-- With at least as many operand words as the opcode has, decoding them succeeds (R77). -/
theorem decodeOperands_long (h : o.ops ≤ ws.length) : ∃ i rest, decodeOperands o ws = .ok (i, rest) := by
  cases o with
  | nop | lt | eq | add | sub | mul | ret | halt => exact ⟨_, _, rfl⟩
  | call =>
    match ws, h with
    | a :: b :: ws, _ => exact ⟨_, _, rfl⟩
  | _ =>
    match ws, h with
    | a :: ws, _ => exact ⟨_, _, rfl⟩

end

/-! ### The decoder -/

section
variable {m : OpcodeMap} {w : Word} {ws rest : List Word} {i : Instr} {o : Opcode}

theorem decode_cons_of_none (h : m.opcode? w = none) : decode m (w :: ws) = .error (.unknownOpcode w) := by
  simp only [decode, h]

theorem decode_cons_of_some (h : m.opcode? w = some o) : decode m (w :: ws) = decodeOperands o ws := by
  simp only [decode, h]

/-- An answered instruction and the words it leaves: the list was its encoding and those words (R71). -/
theorem decode_ok (h : decode m ws = .ok (i, rest)) : ws = encode m i ++ rest := by
  cases ws with
  | nil => cases h
  | cons w ws =>
    cases ho : m.opcode? w with
    | none => rw [decode_cons_of_none ho] at h; cases h
    | some o =>
      rw [decode_cons_of_some ho] at h
      obtain ⟨rfl, rfl⟩ := decodeOperands_ok h
      rw [← OpcodeMap.word_of_opcode? ho]; rfl

theorem decode_encode (hm : m.wf) (i : Instr) (rest : List Word) : decode m (encode m i ++ rest) = .ok (i, rest) :=
  (decode_cons_of_some (OpcodeMap.opcode?_word hm i.opcode)).trans (decodeOperands_operands i rest)

/-- The grounds of each rejection (R77, R93, R217). -/
theorem decode_error {e : DecodeError} (h : decode m ws = .error e) :
    (ws = [] ∧ e = .noWord) ∨
    (∃ w ws', ws = w :: ws' ∧ (∀ o, m.word o ≠ w) ∧ e = .unknownOpcode w) ∨
    (∃ o ws', ws = m.word o :: ws' ∧ ws'.length < o.ops ∧ e = .truncated ws.length) := by
  cases ws with
  | nil => cases h; exact .inl ⟨rfl, rfl⟩
  | cons w ws =>
    cases ho : m.opcode? w with
    | none =>
      rw [decode_cons_of_none ho] at h
      cases h
      exact .inr (.inl ⟨w, ws, rfl, OpcodeMap.opcode?_eq_none.1 ho, rfl⟩)
    | some o =>
      rw [decode_cons_of_some ho] at h
      have hshort : ws.length < o.ops := by
        by_contra hlong
        obtain ⟨i, rest, hok⟩ := decodeOperands_long (Nat.le_of_not_lt hlong)
        rw [hok] at h
        cases h
      rw [decodeOperands_short hshort] at h
      cases h
      exact .inr (.inr ⟨o, ws, by rw [OpcodeMap.word_of_opcode? ho], hshort, by rw [List.length_cons, Nat.add_comm]⟩)

end

/-- The default map uses exactly the words below 0x0014 (R72). -/
theorem defaultOpcodeMap_image (w : Word) : (∃ o, defaultOpcodeMap.word o = w) ↔ w.toNat < 0x0014 := by
  constructor
  · rintro ⟨o, rfl⟩
    cases o <;> decide
  · intro h
    have hall : ∀ n < 0x0014, ∃ o ∈ Opcode.all, defaultOpcodeMap.word o = BitVec.ofNat 16 n := by decide
    obtain ⟨o, -, ho⟩ := hall w.toNat h
    exact ⟨o, by rw [ho, BitVec.ofNat_toNat, BitVec.setWidth_eq]⟩

/-- Settles O1: the lookup inverts an injective map, and the operands decode by the opcode alone. -/
theorem decodeInvertsEncode : Obligations.DecodeInvertsEncode := fun _ i rest hm _ => decode_encode hm i rest

/-- Settles O2: what `decode_ok` says of an answered list. -/
theorem decodedWordsAreTheEncoding : Obligations.DecodedWordsAreTheEncoding := fun _ _ _ _ h => decode_ok h

/-- Settles O3: each row is an encoding under the default map, which is injective. -/
theorem tableWordsDecode : Obligations.TableWordsDecode := by
  have row : ∀ i, decode defaultOpcodeMap (encode defaultOpcodeMap i) = .ok (i, []) := fun i => by
    simpa only [List.append_nil] using decode_encode defaultOpcodeMap_wf i []
  exact ⟨row .nop, row (.ldi _), row (.stf _), row (.drop _), row .lt, row (.brt _), row .mul, row (.trap _),
    row (.call _ _), row .halt⟩

/-- Settles O4: the rejection stands for a word outside the default map's image. -/
theorem illegalWordsOfTheDefaultMap : Obligations.IllegalWordsOfTheDefaultMap := by
  intro w rest
  have himage : defaultOpcodeMap.opcode? w = none ↔ 0x0014 ≤ w.toNat := by
    rw [OpcodeMap.opcode?_eq_none, ← not_lt, ← defaultOpcodeMap_image, not_exists]
  rw [← himage]
  refine ⟨fun h => ?_, decode_cons_of_none⟩
  rcases decode_error h with ⟨hnil, -⟩ | ⟨_, _, hw, hnone, -⟩ | ⟨_, _, -, -, he⟩
  · cases hnil
  · cases hw; exact OpcodeMap.opcode?_eq_none.2 hnone
  · cases he

/-- Settles O5: the opcode is found first, then the operand words run out. -/
theorem missingOperandWordIsTruncation : Obligations.MissingOperandWordIsTruncation := fun _ o _ hm h =>
  (decode_cons_of_some (OpcodeMap.opcode?_word hm o)).trans (decodeOperands_short h)

end Sys2Proof
end

section
/-! PROOFS. Fetch and decode (spec/40_fetch_decode_execute.md R93): which words the fetch sees, the step each answer of the
decoder gives, and what an answer of the fetch says about program memory. -/

namespace Sys2Proof.Machine

/-! ### Lengths (R75) -/

theorem encode_length (m : OpcodeMap) (i : Instr) : (encode m i).length = i.opcode.length := by cases i <;> rfl

theorem opcode_length_le (o : Opcode) : o.length ≤ 3 := by cases o <;> decide

/-! ### The fetched words -/

section
variable {s : State}

theorem fetchWords_succ {n j : Nat} {w : Word} (hlen : j < s.progLen.toNat) (hw : s.prog.read j = some w) :
    fetchWords (n + 1) j s = w :: fetchWords n (j + 1) s := by
  simp only [fetchWords, if_pos hlen, hw]

/-- Every fetched word stands in program memory below PROG_LEN. -/
theorem fetchWords_getElem? {n j k : Nat} {w : Word} (h : (fetchWords n j s)[k]? = some w) :
    j + k < s.progLen.toNat ∧ s.prog.read (j + k) = some w := by
  induction n generalizing j k with
  | zero => cases h
  | succ n ih =>
    simp only [fetchWords] at h
    split at h
    · split at h
      · cases k with
        | zero => cases h; exact ⟨‹_›, ‹_›⟩
        | succ k => rw [show j + (k + 1) = j + 1 + k by omega]; exact ih h
      · cases h
    · cases h

theorem read_of_fetchWords_cons {n j : Nat} {w : Word} {ws : List Word} (h : fetchWords n j s = w :: ws) :
    s.prog.read j = some w :=
  (fetchWords_getElem? (show (fetchWords n j s)[0]? = some w by rw [h]; rfl)).2

/-- Stored words below PROG_LEN are fetched, up to the number the fetch reads. -/
theorem fetchWords_of_stored {ws : List Word} {n j : Nat} (hn : ws.length ≤ n) (hlen : j + ws.length ≤ s.progLen.toNat)
    (hws : ∀ (k : Nat) (w : Word), ws[k]? = some w → s.prog.read (j + k) = some w) :
    ∃ rest, fetchWords n j s = ws ++ rest := by
  induction ws generalizing n j with
  | nil => exact ⟨_, rfl⟩
  | cons w ws ih =>
    rw [List.length_cons] at hn hlen
    cases n with
    | zero => omega
    | succ n =>
      obtain ⟨rest, hrest⟩ := ih (n := n) (j := j + 1) (by omega) (by omega)
        fun k v hk => by rw [show j + 1 + k = j + (k + 1) by omega]; exact hws (k + 1) v hk
      have hw : s.prog.read j = some w := hws 0 w rfl
      exact ⟨rest, by rw [fetchWords_succ (by omega) hw, hrest, List.cons_append]⟩

/-- Where every cell up to PROG_LEN is loaded, the fetch stops at PROG_LEN only. -/
theorem length_fetchWords {n j : Nat} (hload : ∀ k, j ≤ k → k < s.progLen.toNat → (s.prog.read k).isSome) :
    (fetchWords n j s).length = min n (s.progLen.toNat - j) := by
  induction n generalizing j with
  | zero => simp only [fetchWords, List.length_nil, Nat.zero_min]
  | succ n ih =>
    by_cases hlen : j < s.progLen.toNat
    · obtain ⟨w, hw⟩ := Option.isSome_iff_exists.1 (hload j le_rfl hlen)
      rw [fetchWords_succ hlen hw, List.length_cons, ih fun k hk => hload k (by omega)]
      omega
    · simp only [fetchWords, if_neg hlen, List.length_nil]
      omega

/-! ### One equation of `fetch` per answer of the decoder -/

theorem fetch_of_inRange (lo : 0 ≤ s16 s.ip) (hi : s16 s.ip < (s.progLen.toNat : Int)) : fetch s = fetchDecode s := by
  unfold fetch; rw [if_neg (by omega), if_neg (by omega)]

theorem fetchDecode_of_ok {i : Instr} {rest : List Word}
    (h : decode s.params.opcodeMap (fetchWords 3 (s16 s.ip).toNat s) = .ok (i, rest)) : fetchDecode s = .decoded i := by
  simp only [fetchDecode, h]

theorem fetchDecode_of_unknown {w : Word}
    (h : decode s.params.opcodeMap (fetchWords 3 (s16 s.ip).toNat s) = .error (.unknownOpcode w)) :
    fetchDecode s = .stopped (.raise .unknownOpcode (u16 w)) := by
  simp only [fetchDecode, h]

theorem fetchDecode_of_truncated {k : Nat}
    (h : decode s.params.opcodeMap (fetchWords 3 (s16 s.ip).toNat s) = .error (.truncated k)) :
    fetchDecode s = .stopped (missingWord (s16 s.ip + k) s) := by
  simp only [fetchDecode, h]

theorem fetchDecode_of_noWord (h : decode s.params.opcodeMap (fetchWords 3 (s16 s.ip).toNat s) = .error .noWord) :
    fetchDecode s = .stopped (missingWord (s16 s.ip) s) := by
  simp only [fetchDecode, h]

theorem missingWord_of_ge {j : Int} (h : (s.progLen.toNat : Int) ≤ j) :
    missingWord j s = .raise .truncatedInstruction j := by
  unfold missingWord; rw [if_pos (by omega)]

/-- A missing word raises a fault only at PROG_LEN or beyond. -/
theorem missingWord_raise {j x : Int} {c : Cause} (h : missingWord j s = .raise c x) :
    (s.progLen.toNat : Int) ≤ j ∧ c = .truncatedInstruction := by
  unfold missingWord at h
  split at h
  · cases h; exact ⟨by omega, rfl⟩
  · cases h

/-! ### What an answer of the fetch says -/

theorem fetch_ended_iff : fetch s = .ended ↔ s16 s.ip ≥ (s.progLen.toNat : Int) := by
  refine ⟨fun h => ?_, fetch_of_ip_ge⟩
  by_contra hip
  by_cases hneg : s16 s.ip < 0
  · rw [fetch_of_ip_neg hneg] at h
    cases h
  · rw [fetch_of_inRange (by omega) (by omega), fetchDecode] at h
    split at h <;> cases h

/-- An answer of the fetch other than the end of the run: a negative IP, or what the decode stage answers. -/
theorem fetch_cases (h : fetch s ≠ .ended) :
    (s16 s.ip < 0 ∧ fetch s = .stopped (.raise .fetchRange (s16 s.ip))) ∨
    (0 ≤ s16 s.ip ∧ s16 s.ip < (s.progLen.toNat : Int) ∧ fetch s = fetchDecode s) := by
  have hip := mt fetch_ended_iff.2 h
  by_cases hneg : s16 s.ip < 0
  · exact .inl ⟨hneg, fetch_of_ip_neg hneg⟩
  · exact .inr ⟨by omega, by omega, fetch_of_inRange (by omega) (by omega)⟩

/-- The words of a decoded instruction stand in program memory at IP, wholly below PROG_LEN. -/
theorem fetch_decoded {i : Instr} (h : fetch s = .decoded i) :
    0 ≤ s16 s.ip ∧ s16 s.ip + i.opcode.length ≤ (s.progLen.toNat : Int) ∧
    ∀ (k : Nat) (w : Word), (encode s.params.opcodeMap i)[k]? = some w → s.prog.read ((s16 s.ip).toNat + k) = some w := by
  rcases fetch_cases (by rw [h]; exact Fetched.noConfusion) with ⟨-, hf⟩ | ⟨lo, -, hf⟩
  · rw [hf] at h; cases h
  have hd : ∃ rest, fetchWords 3 (s16 s.ip).toNat s = encode s.params.opcodeMap i ++ rest := by
    rw [hf, fetchDecode] at h
    split at h
    · rename_i j rest hok
      cases h
      exact ⟨rest, decode_ok hok⟩
    all_goals cases h
  obtain ⟨rest, hd⟩ := hd
  have hfetched : ∀ {k : Nat} {w : Word}, (encode s.params.opcodeMap i)[k]? = some w →
      (fetchWords 3 (s16 s.ip).toNat s)[k]? = some w := fun hk => by
    rw [hd, List.getElem?_append_left (List.getElem?_eq_some_iff.1 hk).1, hk]
  have hlen := encode_length s.params.opcodeMap i
  have hpos : 1 ≤ i.opcode.length := Nat.le_add_right 1 _
  have hlast := List.getElem?_eq_getElem (show i.opcode.length - 1 < (encode s.params.opcodeMap i).length by omega)
  have hlast_lt := (fetchWords_getElem? (hfetched hlast)).1
  exact ⟨lo, by omega, fun k w hk => (fetchWords_getElem? (hfetched hk)).2⟩

/-- The opcode word of a decoded instruction stands at IP. -/
theorem fetch_decoded_opcode {i : Instr} (h : fetch s = .decoded i) :
    s.prog.read (s16 s.ip).toNat = some (s.params.opcodeMap.word i.opcode) := by
  obtain ⟨-, -, hstored⟩ := fetch_decoded h
  exact hstored 0 _ rfl

/-- The grounds of each fault of the fetch (R93, spec/60_exceptions.md R211, R217). -/
theorem fetch_raise {c : Cause} {x : Int} (h : fetch s = .stopped (.raise c x)) :
    (s16 s.ip < 0 ∧ c = .fetchRange) ∨
    (0 ≤ s16 s.ip ∧ s16 s.ip < (s.progLen.toNat : Int) ∧
      ((c = .unknownOpcode ∧ ∃ w, s.prog.read (s16 s.ip).toNat = some w ∧ ∀ o, s.params.opcodeMap.word o ≠ w) ∨
       (c = .truncatedInstruction ∧ ∃ o, s.prog.read (s16 s.ip).toNat = some (s.params.opcodeMap.word o) ∧
          (s.progLen.toNat : Int) < s16 s.ip + o.length))) := by
  rcases fetch_cases (by rw [h]; exact Fetched.noConfusion) with ⟨hneg, hf⟩ | ⟨lo, hi, hf⟩
  · rw [hf] at h; cases h; exact .inl ⟨hneg, rfl⟩
  refine .inr ⟨lo, hi, ?_⟩
  rw [hf] at h
  cases hd : decode s.params.opcodeMap (fetchWords 3 (s16 s.ip).toNat s) with
  | ok r => rw [fetchDecode_of_ok hd] at h; cases h
  | error e =>
    rcases decode_error hd with ⟨hnil, rfl⟩ | ⟨w, ws, hws, hnone, rfl⟩ | ⟨o, ws, hws, hshort, rfl⟩
    · rw [fetchDecode_of_noWord hd] at h
      have := (missingWord_raise (Fetched.stopped.inj h)).1
      omega
    · rw [fetchDecode_of_unknown hd] at h
      cases h
      exact .inl ⟨rfl, w, read_of_fetchWords_cons hws, hnone⟩
    · rw [fetchDecode_of_truncated hd] at h
      obtain ⟨hend, rfl⟩ := missingWord_raise (Fetched.stopped.inj h)
      rw [hws, List.length_cons] at hend
      exact .inr ⟨rfl, o, read_of_fetchWords_cons hws, by rw [Opcode.length]; omega⟩

end

/-! ### The statements -/

theorem postStep_eq (t : State) : postStep t = { t with
    channel := t.channel ++ if t.traceEn ∧ t.status = .running then [.postStep (stackDump t)] else [] } := by
  rw [← postStep_channel]
  unfold postStep; split <;> rfl

/-- Settles O6: the state after the pre-step event is `openStep`, and closing a step is `postStep`. -/
theorem stepRunsTheDecodedInstruction : Obligations.StepRunsTheDecodedInstruction := by
  intro s s₁ i rest hs lo hi hdec _ hs₁
  have hopen : s₁ = openStep i s := by rw [hs₁, openStep_eq]; rfl
  have hstep : step s = closeStep (exec i s₁) := by
    rw [hopen, step_of_decoded hs ((fetch_of_inRange lo hi).trans (fetchDecode_of_ok hdec))]
  refine ⟨fun t ht => ?_, fun f hf => ?_⟩
  · rw [hstep, ht, closeStep, postStep_eq]
  · rw [hstep, hf, closeStep]

/-- Settles O7: the fetch reads three words, the longest instruction's, so it sees the whole encoding. -/
theorem stepFetchesTheEncodedWords : Obligations.StepFetchesTheEncodedWords := by
  intro s i hs hm _ lo hi hstored
  have hlen := encode_length s.params.opcodeMap i
  have hle := opcode_length_le i.opcode
  have hpos : 1 ≤ i.opcode.length := Nat.le_add_right 1 _
  obtain ⟨rest, hwords⟩ := fetchWords_of_stored (n := 3) (by omega) (by omega) hstored
  have hdec := decode_encode hm i rest
  rw [← hwords] at hdec
  exact step_of_decoded hs ((fetch_of_inRange lo (by omega)).trans (fetchDecode_of_ok hdec))

/-- Settles O9: the first fetched word is no opcode's. -/
theorem unknownOpcodeFaults : Obligations.UnknownOpcodeFaults := by
  intro s w hs lo hi hw hnone
  have hdec : decode s.params.opcodeMap (fetchWords 3 (s16 s.ip).toNat s) = .error (.unknownOpcode w) := by
    rw [fetchWords_succ (by omega) hw, decode_cons_of_none (OpcodeMap.opcode?_eq_none.2 hnone)]
  rw [step_of_stopped hs ((fetch_of_inRange lo hi).trans (fetchDecode_of_unknown hdec)), conclude_raise]

/-- Settles O10: the fetch reads the loaded words up to PROG_LEN, so the first missing operand word is the one there. -/
theorem truncatedInstructionFaults : Obligations.TruncatedInstructionFaults := by
  intro s o hs hm lo hi hpast hw hload
  have hle := opcode_length_le o
  have hwords := fetchWords_succ (n := 2) (by omega) hw
  have hcount := length_fetchWords (n := 3) hload
  rw [hwords, List.length_cons] at hcount
  have hops : o.length = 1 + o.ops := rfl
  have hdec : decode s.params.opcodeMap (fetchWords 3 (s16 s.ip).toNat s) =
      .error (.truncated (s.progLen.toNat - (s16 s.ip).toNat)) := by
    rw [hwords, missingOperandWordIsTruncation _ o _ hm (by omega)]
    congr 2
    omega
  have hmissing : s16 s.ip + (s.progLen.toNat - (s16 s.ip).toNat : Nat) = (s.progLen.toNat : Int) := by omega
  rw [step_of_stopped hs ((fetch_of_inRange lo hi).trans (fetchDecode_of_truncated hdec)), hmissing,
    missingWord_of_ge le_rfl, conclude_raise]

end Sys2Proof.Machine
end

section
/-! PROOFS. How a step ends (spec/40_fetch_decode_execute.md R91, R96): no refusal, the grounds of each status, the trace
events, and that nothing happens outside RUNNING. -/

namespace Sys2Proof.Machine

/-! ### No refusal (R79, R221) -/

theorem exec_ne_refused (i : Instr) (s : State) (r : Refusal) : exec i s ≠ .refused r := by
  rw [exec_eq_runBody]
  exact conclude_ne_refused s _ r

theorem closeStep_ne_refused {o : Host.Outcome State Fault Refusal} (h : ∀ r, o ≠ .refused r) (r : Refusal) :
    closeStep o ≠ .refused r := by
  cases o with
  | next t => exact nofun
  | fault f => exact nofun
  | refused x => exact absurd rfl (h x)

/-- Settles O22: a step is the same state, a concluded stop of the fetch, or a closed meaning, and none of them is refused. -/
theorem noStepIsRefused : Obligations.NoStepIsRefused := by
  intro s r
  by_cases hs : s.status = .running
  · cases hf : fetch s with
    | ended => rw [step_of_ended hs hf]; exact nofun
    | stopped e => rw [step_of_stopped hs hf]; exact conclude_ne_refused s _ r
    | decoded i => rw [step_of_decoded hs hf]; exact closeStep_ne_refused (exec_ne_refused i _) r
  · rw [step_of_not_running hs]; exact nofun

/-! ### Outside RUNNING (R96, spec/70_reset_and_hazards.md R241) -/

theorem run_of_not_running {s : State} (h : s.status ≠ .running) (k : Nat) :
    Host.Core.run Sys2Proof.core k s = .next s := by
  induction k with
  | zero => rfl
  | succ k ih =>
    have hstep : Sys2Proof.core.step s = .next s := step_of_not_running h
    simp only [Host.Core.run, hstep, ih]

/-- Settles O11: the three terminal statuses are not RUNNING. -/
theorem endedRunsStayAsTheyAre : Obligations.EndedRunsStayAsTheyAre := by
  intro s k hterm
  refine run_of_not_running ?_ k
  rcases hterm with h | h | h <;> rw [h] <;> decide

/-- Settles O59: IDLE is not RUNNING. -/
theorem powerUpIsIdle : Obligations.PowerUpIsIdle := by
  intro p k
  have hidle : (State.powerUp p).status = .idle := rfl
  exact ⟨hidle, rfl, rfl, rfl, rfl, rfl, run_of_not_running (by rw [hidle]; decide) k⟩

/-! ### The status a running step leaves -/

section
variable {s t : State}

/-- The three ends of an instruction: it goes on, it was HALT, or it faulted by a cause of its list. -/
theorem exec_status {i : Instr} (h : exec i s = .next t) (hs : s.status = .running) :
    (t.status = .running ∧ i ≠ .halt) ∨ (t.status = .halted ∧ i = .halt) ∨
    (t.status = .faulted ∧ t.faultCause ∈ raisableCauses i) := by
  rcases exec_next h with hok | ⟨c, x, hraise, rfl⟩
  · by_cases hi : i = .halt
    · subst hi; cases hok; exact .inr (.inl ⟨rfl, rfl⟩)
    · exact .inl ⟨(bodyOf_status i hok hi).trans hs, hi⟩
  · exact .inr (.inr ⟨rfl, bodyOf_raisesOnly i _ c x hraise⟩)

/-- The five ends of a running step (R91), each with its grounds. -/
inductive StepEnd (s t : State) : Prop where
  /-- IP at or above PROG_LEN (R92) -/
  | ended (hip : s16 s.ip ≥ (s.progLen.toNat : Int)) (ht : t = s.setStatus .ended)
  /-- a fault of the fetch (R93) -/
  | fetchFault (c : Cause) (x : Int) (hf : fetch s = .stopped (.raise c x)) (ht : t = takeFault c x s)
  /-- HALT was fetched (R200) -/
  | halted (hf : fetch s = .decoded .halt) (hu : exec .halt (openStep .halt s) = .next t) (ht : t.status = .halted)
  /-- the fetched instruction took a fault (R215) -/
  | instrFault (i : Instr) (hf : fetch s = .decoded i) (hu : exec i (openStep i s) = .next t) (ht : t.status = .faulted)
      (hc : t.faultCause ∈ raisableCauses i)
  /-- the fetched instruction completed and the run goes on -/
  | goesOn (i : Instr) (u : State) (hi : i ≠ .halt) (hf : fetch s = .decoded i) (hu : exec i (openStep i s) = .next u)
      (hr : u.status = .running) (ht : t = postStep u)

theorem step_end (h : step s = .next t) (hs : s.status = .running) : StepEnd s t := by
  rcases step_next h with ⟨hn, -⟩ | ⟨-, hf, ht⟩ | ⟨-, c, x, hf, ht⟩ | ⟨-, i, u, hf, hu, ht⟩
  · exact absurd hs hn
  · exact .ended (fetch_ended_iff.1 hf) ht
  · exact .fetchFault c x hf ht
  · rcases exec_status hu ((openStep_status i s).trans hs) with ⟨hr, hi⟩ | ⟨hh, rfl⟩ | ⟨hft, hc⟩
    · exact .goesOn i u hi hf hu hr ht
    · rw [postStep_of_not_running (by rw [hh]; decide)] at ht
      subst ht
      exact .halted hf hu hh
    · rw [postStep_of_not_running (by rw [hft]; decide)] at ht
      subst ht
      exact .instrFault i hf hu hft hc

theorem ip_lt_of_fetch {f : Fetched} (h : fetch s = f) (hf : f ≠ .ended) : s16 s.ip < (s.progLen.toNat : Int) :=
  not_le.1 (mt fetch_ended_iff.2 (h ▸ hf))

end

/-- Settles O12: each of the five ends of a step fixes the status, and only the first has IP at or above PROG_LEN. -/
theorem runningStepHasOneOfFourOutcomes : Obligations.RunningStepHasOneOfFourOutcomes := by
  intro s t hs h
  have hnot : ∀ x : Status, t.status = x → x ≠ .ended → s16 s.ip < (s.progLen.toNat : Int) →
      (t.status = .ended ↔ s16 s.ip ≥ (s.progLen.toNat : Int)) := fun x hx hne hip =>
    ⟨fun he => absurd (hx.symm.trans he) hne, fun hge => absurd hge (not_le.2 hip)⟩
  cases step_end h hs with
  | ended hip ht => subst ht; exact ⟨nofun, ⟨fun _ => hip, fun _ => rfl⟩, nofun⟩
  | fetchFault c x hf ht =>
    subst ht
    exact ⟨nofun, hnot .faulted rfl (by decide) (ip_lt_of_fetch hf nofun), nofun⟩
  | halted hf hu ht =>
    exact ⟨by rw [ht]; decide, hnot .halted ht (by decide) (ip_lt_of_fetch hf nofun), fun _ => fetch_decoded_opcode hf⟩
  | instrFault i hf hu ht hc =>
    exact ⟨by rw [ht]; decide, hnot .faulted ht (by decide) (ip_lt_of_fetch hf nofun), by rw [ht]; exact nofun⟩
  | goesOn i u hi hf hu hr ht =>
    have hrun : t.status = .running := by rw [ht, postStep_status, hr]
    exact ⟨by rw [hrun]; decide, hnot .running hrun (by decide) (ip_lt_of_fetch hf nofun), by rw [hrun]; exact nofun⟩

theorem opcode_eq_halt_iff (i : Instr) : i.opcode = .halt ↔ i = .halt := by
  cases i <;> simp [Instr.opcode]

/-- Settles O13: RUNNING is left by the last of the five ends only, FAULTED by a fault of the fetch or of the instruction. -/
theorem runningAndFaultedStepsHaveTheirGrounds : Obligations.RunningAndFaultedStepsHaveTheirGrounds := by
  intro s t hs h
  cases step_end h hs with
  | ended hip ht => subst ht; exact ⟨nofun, nofun⟩
  | fetchFault c x hf ht =>
    subst ht
    refine ⟨nofun, fun _ => ?_⟩
    rcases fetch_raise hf with hneg | ⟨lo, hi, hunknown | htruncated⟩
    · exact .inl hneg
    · exact .inr ⟨lo, hi, .inl hunknown⟩
    · exact .inr ⟨lo, hi, .inr (.inl htruncated)⟩
  | halted hf hu ht => rw [ht]; exact ⟨nofun, nofun⟩
  | instrFault i hf hu ht hc =>
    obtain ⟨lo, -, hstored⟩ := fetch_decoded hf
    exact ⟨by rw [ht]; exact nofun, fun _ => .inr ⟨lo, ip_lt_of_fetch hf nofun, .inr (.inr ⟨i, hc, hstored⟩)⟩⟩
  | goesOn i u hi hf hu hr ht =>
    have hrun : t.status = .running := by rw [ht, postStep_status, hr]
    exact ⟨fun _ => ⟨(fetch_decoded hf).1, ip_lt_of_fetch hf nofun, i.opcode, mt (opcode_eq_halt_iff i).1 hi,
      fetch_decoded_opcode hf⟩, by rw [hrun]; exact nofun⟩

/-! ### The trace events of a step (R108, R109) -/

theorem openStep_channel_traced {i : Instr} {s : State} (h : s.traceEn = true) :
    (openStep i s).channel = s.channel ++ [preStepEvent i s] := by
  rw [openStep_channel, if_pos h]

theorem exec_traceEn {i : Instr} {s t : State} (h : exec i s = .next t) : t.traceEn = s.traceEn := by
  obtain ⟨-, -, htrace, -⟩ := State.loaded_eq_iff.1 (exec_loaded h)
  exact htrace

theorem operands_length (i : Instr) : i.operands.length = i.opcode.ops := by cases i <;> rfl

/-- The operand words of a fetched instruction follow its opcode word in program memory. -/
theorem fetch_decoded_operands {i : Instr} {s : State} (h : fetch s = .decoded i) {k : Nat} {w : Word}
    (hk : i.operands[k]? = some w) : s.prog.read ((s16 s.ip).toNat + 1 + k) = some w := by
  obtain ⟨-, -, hstored⟩ := fetch_decoded h
  rw [Nat.add_assoc, Nat.add_comm 1 k]
  exact hstored (k + 1) w hk

theorem exec_channel_of_raised {i : Instr} {s t : State} (h : exec i s = .next t) (hs : s.status = .running)
    (ht : t.status = .faulted) : t.channel = s.channel := by
  obtain ⟨c, x, -, rfl⟩ := exec_faulted h hs ht
  rfl

/-- Settles O24: the events of an instruction stand between those of opening and closing its step. -/
theorem traceEventsOfAStep : Obligations.TraceEventsOfAStep := by
  intro s t hs htr h
  cases step_end h hs with
  | ended hip ht => subst ht; exact ⟨nofun, nofun, fun _ => rfl, nofun⟩
  | fetchFault c x hf ht => subst ht; exact ⟨nofun, nofun, nofun, fun _ => .inl rfl⟩
  | halted hf hu ht =>
    have hch : t.channel = s.channel ++ [preStepEvent .halt s] := by
      rw [exec_channel_of_not_trap hu nofun, openStep_channel_traced htr]
    rw [ht]
    exact ⟨nofun, fun _ => hch, nofun, nofun⟩
  | instrFault i hf hu ht hc =>
    have hch : t.channel = s.channel ++ [preStepEvent i s] := by
      rw [exec_channel_of_raised hu ((openStep_status i s).trans hs) ht, openStep_channel_traced htr]
    rw [ht]
    exact ⟨nofun, nofun, nofun, fun _ => .inr ⟨_, _, _, hch⟩⟩
  | goesOn i u hi hf hu hr ht =>
    have hrun : t.status = .running := by rw [ht, postStep_status, hr]
    rw [hrun]
    refine ⟨fun _ => ?_, nofun, nofun, nofun⟩
    obtain ⟨out, hout, hone⟩ := exec_channel hu
    have htrace : u.traceEn = true := by rw [exec_traceEn hu, openStep_eq, htr]
    refine ⟨_, i.opcode, i.operands, out, fetch_decoded_opcode hf, rfl, operands_length i,
      fun k w hk => fetch_decoded_operands hf hk, hone, ?_⟩
    rw [ht, postStep_channel, if_pos ⟨htrace, hr⟩, hout, openStep_channel_traced htr, postStep_eq]
    rfl

end Sys2Proof.Machine
end

section
/-! PROOFS. Each instruction's whole answer, apart from RET: the state it completes with and the fault of each check that
fails (spec/41_noop_load_store.md to spec/48_halt.md). -/

namespace Sys2Proof.Machine

/-! ### From an instruction's pseudocode to its answer -/

section
variable {i : Instr} {s t : State}

theorem exec_of_ok (h : bodyOf i (s.advance i.opcode) = .ok t) : exec i s = .next t := by
  rw [exec_eq_runBody, runBody, h, conclude_ok]

theorem exec_of_raise {c : Cause} {x : Int} (h : bodyOf i (s.advance i.opcode) = .error (.raise c x)) :
    exec i s = .next (takeFault c x s) := by
  rw [exec_eq_runBody, runBody, h, conclude_raise]

theorem exec_of_model {f : Fault} (h : bodyOf i (s.advance i.opcode) = .error (.model f)) : exec i s = .fault f := by
  rw [exec_eq_runBody, runBody, h, conclude_model]

end

/-! ### The shared operations -/

section
variable {s : State} {v : Word}

theorem push_overflow (h : s16 s.sp ≥ (s.params.stackCap : Int) - 1) :
    push v s = .error (.raise .stackOverflow (s16 s.sp + 1)) := by
  unfold push; rw [if_pos (by omega)]

theorem inRange_sp_succ (lo : -1 ≤ s16 s.sp) (hi : s16 s.sp < (s.params.stackCap : Int) - 1) :
    inRange s.params.stackCap (s16 s.sp + 1) := ⟨by omega, by omega⟩

theorem readCell_unwritten {sp : Space} {i : Int} (hr : inRange (s.bound sp) i) (hw : (s.space sp).read i.toNat = none) :
    readCell sp i s = .error (.model (.uninitialisedRead sp i)) := by
  unfold readCell; rw [if_pos hr, hw]

theorem adjustSp_eq {n : Int} (lo : -1 ≤ n) (hi : n ≤ (s.params.stackCap : Int) - 1) :
    adjustSp n s = .ok { s with sp := word n } := by
  unfold adjustSp; rw [if_neg (by omega), if_neg (by omega)]; rfl

theorem adjustSp_underflow {n : Int} (h : n < -1) : adjustSp n s = .error (.raise .stackUnderflow n) := by
  unfold adjustSp; rw [if_pos h]

theorem adjustSp_overflow {n : Int} (lo : -1 ≤ n) (h : n > (s.params.stackCap : Int) - 1) :
    adjustSp n s = .error (.raise .stackOverflow n) := by
  unfold adjustSp; rw [if_neg (by omega), if_pos h]

/-- A pseudocode that starts with a pop faults on an empty stack, whatever comes after it. -/
theorem pop_bind_underflow {α : Type} {f : Word × State → Except Stop α} (h : s16 s.sp < 0) :
    (pop s >>= f) = .error (.raise .stackUnderflow (s16 s.sp)) := by
  rw [pop_underflow h, error_bind]

/-! ### Loads and stores -/

theorem ldfBody_of_read {a : Word} (hr : inRange s.params.stackCap (frameIndex s a))
    (hw : s.os.read (frameIndex s a).toNat = some v) : ldfBody a s = push v s := by
  unfold ldfBody; rw [if_pos hr, readCell_eq (sp := .os) hr hw, ok_bind]

theorem ldfBody_unwritten {a : Word} (hr : inRange s.params.stackCap (frameIndex s a))
    (hw : s.os.read (frameIndex s a).toNat = none) :
    ldfBody a s = .error (.model (.uninitialisedRead .os (frameIndex s a))) := by
  unfold ldfBody; rw [if_pos hr, readCell_unwritten (sp := .os) hr hw, error_bind]

theorem ldfBody_outOfRange {a : Word} (hr : ¬ inRange s.params.stackCap (frameIndex s a)) :
    ldfBody a s = .error (.raise .frameRange (frameIndex s a)) := by
  unfold ldfBody; rw [if_neg hr]

theorem ldhBody_of_read {a : Word} (hr : inRange s.params.heapCap (heapAddress a))
    (hw : s.heap.read (heapAddress a).toNat = some v) : ldhBody a s = push v s := by
  unfold ldhBody; rw [if_pos hr, readCell_eq (sp := .heap) hr hw, ok_bind]

theorem ldhBody_unwritten {a : Word} (hr : inRange s.params.heapCap (heapAddress a))
    (hw : s.heap.read (heapAddress a).toNat = none) :
    ldhBody a s = .error (.model (.uninitialisedRead .heap (heapAddress a))) := by
  unfold ldhBody; rw [if_pos hr, readCell_unwritten (sp := .heap) hr hw, error_bind]

theorem ldhBody_outOfRange {a : Word} (hr : ¬ inRange s.params.heapCap (heapAddress a)) :
    ldhBody a s = .error (.raise .heapRange (heapAddress a)) := by
  unfold ldhBody; rw [if_neg hr]

theorem stfBody_eq {a : Word} (hsp : inRange s.params.stackCap (s16 s.sp)) (hv : s.os.read (s16 s.sp).toNat = some v)
    (hr : inRange s.params.stackCap (frameIndex s a)) :
    stfBody a s = .ok { s with sp := word (s16 s.sp - 1), os := s.os.write (frameIndex s a).toNat v } := by
  unfold stfBody
  rw [pop_eq hsp hv, ok_bind]
  exact (if_pos hr).trans (writeCell_eq (sp := .os) hr)

theorem stfBody_outOfRange {a : Word} (hsp : inRange s.params.stackCap (s16 s.sp))
    (hv : s.os.read (s16 s.sp).toNat = some v) (hr : ¬ inRange s.params.stackCap (frameIndex s a)) :
    stfBody a s = .error (.raise .frameRange (frameIndex s a)) := by
  unfold stfBody
  rw [pop_eq hsp hv, ok_bind]
  exact if_neg hr

theorem sthBody_eq {a : Word} (hsp : inRange s.params.stackCap (s16 s.sp)) (hv : s.os.read (s16 s.sp).toNat = some v)
    (hr : inRange s.params.heapCap (heapAddress a)) :
    sthBody a s = .ok { s with sp := word (s16 s.sp - 1), heap := s.heap.write (heapAddress a).toNat v } := by
  unfold sthBody
  rw [pop_eq hsp hv, ok_bind]
  exact (if_pos hr).trans (writeCell_eq (sp := .heap) hr)

theorem sthBody_outOfRange {a : Word} (hsp : inRange s.params.stackCap (s16 s.sp))
    (hv : s.os.read (s16 s.sp).toNat = some v) (hr : ¬ inRange s.params.heapCap (heapAddress a)) :
    sthBody a s = .error (.raise .heapRange (heapAddress a)) := by
  unfold sthBody
  rw [pop_eq hsp hv, ok_bind]
  exact if_neg hr

/-! ### Branches, TRAP and CALL -/

theorem popBranch_eq {f : Word → Bool} {a : Word} (hsp : inRange s.params.stackCap (s16 s.sp))
    (hv : s.os.read (s16 s.sp).toNat = some v) :
    popBranch f a s = .ok { s with ip := if f v then word (targetOf a) else s.ip, sp := word (s16 s.sp - 1) } := by
  unfold popBranch
  rw [pop_eq hsp hv, ok_bind]
  simp only [pure_eq_ok]
  split <;> rfl

theorem trapBody_eq (hsp : inRange s.params.stackCap (s16 s.sp)) (hv : s.os.read (s16 s.sp).toNat = some v) :
    trapBody 0x0001#16 s = .ok { s with sp := word (s16 s.sp - 1), channel := s.channel ++ [.trapOut v] } := by
  unfold trapBody
  rw [if_neg (not_not.2 rfl), pop_eq hsp hv, ok_bind]
  rfl

theorem trapBody_underflow (h : s16 s.sp < 0) :
    trapBody 0x0001#16 s = .error (.raise .stackUnderflow (s16 s.sp)) := by
  unfold trapBody
  rw [if_neg (not_not.2 rfl), pop_bind_underflow h]

theorem trapBody_unknown {c : Word} (hc : c ≠ 0x0001#16) : trapBody c s = .error (.raise .unknownTrap (u16 c)) := by
  unfold trapBody; rw [if_pos hc]

theorem callBody_overflow {a n : Word} (h : s16 s.lsp + 3 > (s.params.linkCap : Int) - 1) :
    callBody a n s = .error (.raise .linkOverflow (s16 s.lsp + 3)) := by
  unfold callBody; rw [if_pos h]

end

theorem not_inRange {cap : Nat} {i : Int} (h : i < 0 ∨ i > (cap : Int) - 1) : ¬ inRange cap i := by
  rintro ⟨lo, hi⟩; omega

/-! ### The statements -/

/-- Settles O29. -/
theorem nopOnlyAdvances : Obligations.NopOnlyAdvances := fun _ => exec_of_ok rfl

/-- Settles O30: one push, with room or without. -/
theorem ldiPushesItsWord : Obligations.LdiPushesItsWord := fun _ s =>
  ⟨fun lo hi => exec_of_ok (push_eq (s := s.advance .ldi) (inRange_sp_succ (s := s) lo hi)),
    fun h => exec_of_raise (push_overflow (s := s.advance .ldi) h)⟩

/-- Settles O31: the range check, the read and the push, in this order. -/
theorem ldfPushesTheFrameSlot : Obligations.LdfPushesTheFrameSlot := by
  rintro a v s _ rfl
  have hread : 0 ≤ frameIndex s a → frameIndex s a ≤ (s.params.stackCap : Int) - 1 →
      s.os.read (frameIndex s a).toNat = some v → ldfBody a (s.advance .ldf) = push v (s.advance .ldf) :=
    fun h₀ h₁ hw => ldfBody_of_read (s := s.advance .ldf) ⟨h₀, h₁⟩ hw
  exact ⟨fun h₀ h₁ hw lo hi => exec_of_ok ((hread h₀ h₁ hw).trans (push_eq (inRange_sp_succ (s := s) lo hi))),
    fun h => exec_of_raise (ldfBody_outOfRange (s := s.advance .ldf) (not_inRange h)),
    fun h₀ h₁ hw h => exec_of_raise ((hread h₀ h₁ hw).trans (push_overflow h)),
    fun h₀ h₁ hw => exec_of_model (ldfBody_unwritten (s := s.advance .ldf) ⟨h₀, h₁⟩ hw)⟩

/-- Settles O32: as LDF, on the heap. -/
theorem ldhPushesTheHeapCell : Obligations.LdhPushesTheHeapCell := by
  intro a v s
  have hread : 0 ≤ heapAddress a → heapAddress a ≤ (s.params.heapCap : Int) - 1 →
      s.heap.read (heapAddress a).toNat = some v → ldhBody a (s.advance .ldh) = push v (s.advance .ldh) :=
    fun h₀ h₁ hw => ldhBody_of_read (s := s.advance .ldh) ⟨h₀, h₁⟩ hw
  exact ⟨fun h₀ h₁ hw lo hi => exec_of_ok ((hread h₀ h₁ hw).trans (push_eq (inRange_sp_succ (s := s) lo hi))),
    fun h => exec_of_raise (ldhBody_outOfRange (s := s.advance .ldh) (not_inRange h)),
    fun h₀ h₁ hw h => exec_of_raise ((hread h₀ h₁ hw).trans (push_overflow h)),
    fun h₀ h₁ hw => exec_of_model (ldhBody_unwritten (s := s.advance .ldh) ⟨h₀, h₁⟩ hw)⟩

/-- Settles O33: the pop, then the range check. -/
theorem stfStoresToTheFrameSlot : Obligations.StfStoresToTheFrameSlot := by
  rintro a v s _ rfl
  exact ⟨fun lo hi hv h₀ h₁ => exec_of_ok (stfBody_eq (s := s.advance .stf) ⟨lo, hi⟩ hv ⟨h₀, h₁⟩),
    fun lo hi hv h => exec_of_raise (stfBody_outOfRange (s := s.advance .stf) ⟨lo, hi⟩ hv (not_inRange h)),
    fun h => exec_of_raise (pop_bind_underflow (s := s.advance .stf) h)⟩

/-- Settles O34: as STF, on the heap. -/
theorem sthStoresToTheHeapCell : Obligations.SthStoresToTheHeapCell := fun _ _ s =>
  ⟨fun lo hi hv h₀ h₁ => exec_of_ok (sthBody_eq (s := s.advance .sth) ⟨lo, hi⟩ hv ⟨h₀, h₁⟩),
    fun lo hi hv h => exec_of_raise (sthBody_outOfRange (s := s.advance .sth) ⟨lo, hi⟩ hv (not_inRange h)),
    fun h => exec_of_raise (pop_bind_underflow (s := s.advance .sth) h)⟩

/-- Settles O39: the three branches of the checked SP adjustment. -/
theorem dropLowersSp : Obligations.DropLowersSp := by
  rintro a s _ rfl
  exact ⟨fun lo hi => exec_of_ok (adjustSp_eq (s := s.advance .drop) lo hi),
    fun h => exec_of_raise (adjustSp_underflow (s := s.advance .drop) h),
    fun lo h => exec_of_raise (adjustSp_overflow (s := s.advance .drop) lo h)⟩

/-- Settles O40: as DROP, with the sum. -/
theorem resRaisesSp : Obligations.ResRaisesSp := by
  rintro a s _ rfl
  exact ⟨fun lo hi => exec_of_ok (adjustSp_eq (s := s.advance .res) lo hi),
    fun h => exec_of_raise (adjustSp_underflow (s := s.advance .res) h),
    fun lo h => exec_of_raise (adjustSp_overflow (s := s.advance .res) lo h)⟩

section
variable {s : State} {i : Instr} {f : Word → Word → Word} {a b : Word}

theorem bodyOf_lt : bodyOf .lt = binary fun a b => truthWord (lessThan a b) := rfl
theorem bodyOf_eq : bodyOf .eq = binary fun a b => truthWord (wordsEqual a b) := rfl
theorem bodyOf_add : bodyOf .add = binary fun a b => word (u16 a + u16 b) := rfl
theorem bodyOf_sub : bodyOf .sub = binary fun a b => word (u16 a - u16 b) := rfl
theorem bodyOf_mul : bodyOf .mul = binary fun a b => word (u16 a * u16 b) := rfl

/-- The answer of an instruction whose pseudocode is a binary operation on two written cells. -/
theorem exec_binary_eq (hi : bodyOf i = binary f) (lo : 1 ≤ s16 s.sp) (hi' : s16 s.sp ≤ (s.params.stackCap : Int) - 1)
    (hb : s.os.read (s16 s.sp).toNat = some b) (ha : s.os.read (s16 s.sp - 1).toNat = some a) :
    exec i s = .next { s with
      ip := word (s16 s.ip + i.opcode.length), sp := word (s16 s.sp - 1)
      os := s.os.write (s16 s.sp - 1).toNat (f a b) } :=
  exec_of_ok (hi ▸ binary_eq (s := s.advance i.opcode) lo hi' hb ha)

end

theorem truthWord_decide (p : Prop) [Decidable p] :
    truthWord (decide p) = if p then 0x0001#16 else 0x0000#16 := by
  by_cases h : p <;> simp only [truthWord, h, decide_true, decide_false, if_true, if_false, Bool.false_eq_true]

/-- Settles O41. -/
theorem comparisonsPushTheirTruthWord : Obligations.ComparisonsPushTheirTruthWord := by
  intro a b s lo hi hb ha
  have hlt := exec_binary_eq bodyOf_lt lo hi hb ha
  have heq := exec_binary_eq bodyOf_eq lo hi hb ha
  rw [← truthWord_decide, ← truthWord_decide]
  exact ⟨hlt, heq⟩

/-- Settles O42. -/
theorem arithmeticPushesTheWrappedResult : Obligations.ArithmeticPushesTheWrappedResult := by
  intro a b s lo hi hb ha
  have hadd := exec_binary_eq bodyOf_add lo hi hb ha
  have hsub := exec_binary_eq bodyOf_sub lo hi hb ha
  have hmul := exec_binary_eq bodyOf_mul lo hi hb ha
  exact ⟨hadd, hsub, hmul⟩

/-- Settles O46. -/
theorem brJumps : Obligations.BrJumps := fun _ _ => exec_of_ok rfl

/-- Settles O47: one pop, then the test. -/
theorem conditionalBranchesPopAndTest : Obligations.ConditionalBranchesPopAndTest := by
  refine fun a v s => ⟨fun lo hi hv => ⟨?_, ?_⟩, fun h => ⟨exec_of_raise (pop_bind_underflow (s := s.advance .brt) h),
    exec_of_raise (pop_bind_underflow (s := s.advance .brf) h)⟩⟩
  · rw [exec_of_ok (i := .brt a) (popBranch_eq (s := s.advance .brt) ⟨lo, hi⟩ hv)]
    simp only [isTrueWord, decide_eq_true_eq]
    rfl
  · rw [exec_of_ok (i := .brf a) (popBranch_eq (s := s.advance .brf) ⟨lo, hi⟩ hv)]
    simp only [isFalseWord, decide_eq_true_eq]
    rfl

theorem hostOutput_emit_trapOut (s : State) (v : Word) : hostOutput (s.emit (.trapOut v)) = hostOutput s ++ [v] := by
  simp only [hostOutput, State.emit_channel, List.filterMap_append]
  rfl

/-- Settles O49: the code is compared before the pop. -/
theorem trapEmitsOrFaults : Obligations.TrapEmitsOrFaults := by
  refine fun c v s => ⟨?_, fun hc => exec_of_raise (trapBody_unknown (s := s.advance .trap) hc), ?_⟩
  · rintro rfl lo hi hv
    exact ⟨exec_of_ok (trapBody_eq (s := s.advance .trap) ⟨lo, hi⟩ hv), hostOutput_emit_trapOut s v⟩
  · rintro rfl h
    exact exec_of_raise (trapBody_underflow (s := s.advance .trap) h)

/-- Settles O50: `exec_call_eq` or the capacity check. -/
theorem callPushesItsRecordAndJumps : Obligations.CallPushesItsRecordAndJumps := by
  refine fun a n s => ⟨fun lo hi => ?_, fun h => exec_of_raise (callBody_overflow (s := s.advance .call) h)⟩
  rw [exec_call_eq lo hi]
  simp only [word_s16]
  rfl

/-- Settles O56. -/
theorem haltEndsTheRun : Obligations.HaltEndsTheRun := fun _ => exec_of_ok rfl

end Sys2Proof.Machine
end

section
/-! PROOFS. Frames: what a completed instruction can write, and the properties of the loads, the stores, the binary operations
and the branches that follow from it. -/

namespace Sys2Proof.Machine

/-! ### What a completed instruction can write -/

/-- Everything a completed instruction can write (spec/10_state.md's access lines): STH one heap cell, CALL the linkage stack
and the cursors, RET the cursors and the operand stack, every other instruction at most IP, SP, the operand stack, STATUS and
the output channels. -/
inductive CompletedWrites (s t : State) : Instr → Prop where
  | sth (a v : Word) (hv : s.os.read (s16 s.sp).toNat = some v)
      (ht : t = { s with sp := word (s16 s.sp - 1), heap := s.heap.write (heapAddress a).toNat v }) :
      CompletedWrites s t (.sth a)
  | call (a n : Word) (lo : -1 ≤ s16 s.lsp) (hi : s16 s.lsp + 3 ≤ (s.params.linkCap : Int) - 1)
      (ht : t = { s with
        ip := a, fp := s.sp, lsp := word (s16 s.lsp + 3), ls := s.ls.pushRecord (s16 s.lsp) n s.fp s.ip }) :
      CompletedWrites s t (.call a n)
  | ret (ip fp sp lsp : Cursor) (os : Memory) (ht : t = { s with ip := ip, fp := fp, sp := sp, lsp := lsp, os := os }) :
      CompletedWrites s t .ret
  | other (i : Instr) (ip sp : Cursor) (os : Memory) (status : Status) (channel : List Event)
      (hsth : ∀ a, i ≠ .sth a) (hcall : ∀ a n, i ≠ .call a n) (hret : i ≠ .ret)
      (ht : t = { s with ip := ip, sp := sp, os := os, status := status, channel := channel }) :
      CompletedWrites s t i

section
variable {s t : State}

/-- `callBody_ok`, with the three writes as one pushed record. -/
theorem callBody_pushes {a n : Word} (h : callBody a n s = .ok t) :
    -1 ≤ s16 s.lsp ∧ s16 s.lsp + 3 ≤ (s.params.linkCap : Int) - 1 ∧
    t = { s with ip := a, fp := s.sp, lsp := word (s16 s.lsp + 3), ls := s.ls.pushRecord (s16 s.lsp) n s.fp s.ip } := by
  obtain ⟨lo, hi, -⟩ := callBody_ok h
  rw [callBody_eq lo hi] at h
  exact ⟨lo, hi, (Except.ok.inj h).symm⟩

theorem bodyOf_writes (i : Instr) (h : bodyOf i s = .ok t) : CompletedWrites s t i := by
  cases i with
  | sth a => obtain ⟨-, -, v, hv, ht⟩ := sthBody_ok h; exact .sth a v hv ht
  | call a n => obtain ⟨lo, hi, ht⟩ := callBody_pushes h; exact .call a n lo hi ht
  | ret => obtain ⟨ip, fp, sp, lsp, os, ht⟩ := retBody_writes h; exact .ret ip fp sp lsp os ht
  | nop => exact .other _ _ _ _ _ _ nofun nofun nofun (Except.ok.inj h).symm
  | ldi v => exact .other _ _ _ _ _ _ nofun nofun nofun (push_ok h).2
  | ldf a => obtain ⟨-, -, v, -, ht⟩ := ldfBody_ok h; exact .other _ _ _ _ _ _ nofun nofun nofun ht
  | ldh a => obtain ⟨-, -, v, -, ht⟩ := ldhBody_ok h; exact .other _ _ _ _ _ _ nofun nofun nofun ht
  | stf a => obtain ⟨-, -, v, -, ht⟩ := stfBody_ok h; exact .other _ _ _ _ _ _ nofun nofun nofun ht
  | drop n | res n => obtain ⟨-, -, ht⟩ := adjustSp_ok h; exact .other _ _ _ _ _ _ nofun nofun nofun ht
  | lt | eq | add | sub | mul =>
    simp only [bodyOf] at h
    obtain ⟨-, -, a, b, -, -, ht⟩ := binary_ok h
    exact .other _ _ _ _ _ _ nofun nofun nofun ht
  | br a => exact .other _ _ _ _ _ _ nofun nofun nofun (Except.ok.inj h).symm
  | brt a | brf a => obtain ⟨-, v, -, ht⟩ := popBranch_ok h; exact .other _ _ _ _ _ _ nofun nofun nofun ht
  | trap c => obtain ⟨-, -, v, -, ht⟩ := trapBody_ok h; exact .other _ _ _ _ _ _ nofun nofun nofun ht
  | halt => exact .other _ _ _ _ _ _ nofun nofun nofun (Except.ok.inj h).symm

/-! ### Frames of a whole instruction -/

variable {i : Instr}

theorem exec_heap (h : exec i s = .next t) (hi : ∀ a, i ≠ .sth a) : t.heap = s.heap := by
  rcases exec_next h with hok | ⟨c, x, -, rfl⟩
  · cases bodyOf_writes i hok with
    | sth a v hv ht => exact absurd rfl (hi a)
    | call a n lo hi ht => rw [ht, State.advance_heap]
    | ret ip fp sp lsp os ht => rw [ht, State.advance_heap]
    | other _ ip sp os status channel hsth hcall hret ht => rw [ht, State.advance_heap]
  · rfl

theorem exec_ls (h : exec i s = .next t) (hi : ∀ a n, i ≠ .call a n) : t.ls = s.ls := by
  rcases exec_next h with hok | ⟨c, x, -, rfl⟩
  · cases bodyOf_writes i hok with
    | sth a v hv ht => rw [ht, State.advance_ls]
    | call a n lo hi' ht => exact absurd rfl (hi a n)
    | ret ip fp sp lsp os ht => rw [ht, State.advance_ls]
    | other _ ip sp os status channel hsth hcall hret ht => rw [ht, State.advance_ls]
  · rfl

theorem exec_fp_lsp (h : exec i s = .next t) (hi : ∀ a n, i ≠ .call a n) (hr : i ≠ .ret) :
    t.fp = s.fp ∧ t.lsp = s.lsp := by
  rcases exec_next h with hok | ⟨c, x, -, rfl⟩
  · cases bodyOf_writes i hok with
    | sth a v hv ht => rw [ht]; exact ⟨rfl, rfl⟩
    | call a n lo hi' ht => exact absurd rfl (hi a n)
    | ret ip fp sp lsp os ht => exact absurd rfl hr
    | other _ ip sp os status channel hsth hcall hret ht => rw [ht]; exact ⟨rfl, rfl⟩
  · exact ⟨rfl, rfl⟩

theorem exec_status_of_ne_halt (h : exec i s = .next t) (hi : i ≠ .halt) : t.status = s.status ∨ t.status = .faulted := by
  rcases exec_next h with hok | ⟨c, x, -, rfl⟩
  · exact .inl ((bodyOf_status i hok hi).trans (State.advance_status s i.opcode))
  · exact .inr rfl

end

/-- Settles O26: the frames of `CompletedWrites`; a fault writes none of these. -/
theorem stateIsWrittenOnlyByItsInstructions : Obligations.StateIsWrittenOnlyByItsInstructions := by
  intro i s t h
  obtain ⟨hprog, hlen, -, -⟩ := State.loaded_eq_iff.1 (exec_loaded h)
  exact ⟨fun hi k => by rw [exec_heap h hi], fun hi k => by rw [exec_ls h hi], exec_fp_lsp h,
    exec_status_of_ne_halt h, exec_channel_of_not_trap h, fun k => by rw [hprog], hlen⟩

/-- Settles O28: State.Inv keeps LSP between -1 and LINK_CAP-1, so CALL's sum and RET's difference do not wrap. -/
theorem linkagePointerMovesByWholeRecords : Obligations.LinkagePointerMovesByWholeRecords := by
  intro i s t hinv _ h hne
  obtain ⟨-, stackCap, linkCap, -⟩ := hinv.params
  refine ⟨?_, ?_, fun hi hr => (exec_fp_lsp h hi hr).symm⟩
  · rintro ⟨a, n, rfl⟩
    obtain ⟨lo, hi, ht⟩ := callBody_pushes (exec_completed h hne)
    rw [State.advance_lsp] at lo
    rw [State.advance_lsp, State.advance_params] at hi
    rw [ht]
    exact ⟨s16_word (by rw [State.advance_lsp]; omega) (by rw [State.advance_lsp]; omega), rfl⟩
  · rintro rfl
    obtain ⟨lo, -, -, -, rv, retIp, savedFp, n, -, -, -, -, -, ht⟩ :=
      retBody_ok (s := s.advance .ret) stackCap (exec_completed h hne)
    rw [State.advance_lsp] at lo
    have hlsp := s16_range s.lsp
    rw [ht]
    exact s16_word (by rw [State.advance_lsp]; omega) (by rw [State.advance_lsp]; omega)

/-! ### Loads and stores -/

/-- Settles O35: all three loads end with one push. -/
theorem loadsWriteOnlyThePushedCell : Obligations.LoadsWriteOnlyThePushedCell := by
  rintro i s t ⟨a, hi⟩ _ h hne
  have hok := exec_completed h hne
  have hpush : ∃ v, inRange s.params.stackCap (s16 s.sp + 1) ∧ t = { s.advance i.opcode with
      sp := word (s16 s.sp + 1), os := s.os.write (s16 s.sp + 1).toNat v } := by
    rcases hi with rfl | rfl | rfl
    · exact ⟨a, push_ok hok⟩
    · obtain ⟨-, hr, v, -, ht⟩ := ldfBody_ok hok; exact ⟨v, hr, ht⟩
    · obtain ⟨-, hr, v, -, ht⟩ := ldhBody_ok hok; exact ⟨v, hr, ht⟩
  obtain ⟨v, ⟨lo, -⟩, rfl⟩ := hpush
  exact ⟨rfl, fun k hk => Memory.read_write_other _ _ (by omega)⟩

/-- Settles O36: the one write of each store. -/
theorem storesWriteOnlyTheirCell : Obligations.StoresWriteOnlyTheirCell := by
  refine fun a s t _ => ⟨fun h hne => ?_, fun h hne => ?_⟩
  · obtain ⟨-, ⟨lo, -⟩, v, -, rfl⟩ := stfBody_ok (exec_completed h hne)
    have lo : 0 ≤ frameIndex s a := lo
    exact ⟨rfl, fun k hk => Memory.read_write_other s.os v (a := (frameIndex s a).toNat) (by omega)⟩
  · obtain ⟨-, ⟨lo, -⟩, v, -, rfl⟩ := sthBody_ok (exec_completed h hne)
    exact ⟨rfl, fun k hk => Memory.read_write_other _ _ (by omega)⟩

/-- Settles O37: LDH pushes the stored word back onto the cell STH popped it from, which still holds it. -/
theorem heapLoadReturnsTheStoredWord : Obligations.HeapLoadReturnsTheStoredWord := by
  intro a v s hwf lo hi hv h₀ h₁
  obtain ⟨-, stackCap, -⟩ := hwf
  have hsp : s16 (word (s16 s.sp - 1)) = s16 s.sp - 1 := s16_word (by omega) (by omega)
  have hback : s16 (word (s16 s.sp - 1)) + 1 = s16 s.sp := by omega
  have hsth := (sthStoresToTheHeapCell a v s).1 lo hi hv h₀ h₁
  refine ⟨_, _, hsth, (ldhPushesTheHeapCell a v _).1 h₀ h₁ (Memory.read_write_self _ _ _) (by simp only [hsp]; omega)
    (by simp only [hsp]; omega), ?_, fun k => ?_, Memory.read_write_self _ _ _,
    fun k hk => Memory.read_write_other _ _ (by omega)⟩
  · simp only [hback, word_s16]
  · simp only [hback, Memory.read_write]
    split
    · subst k; exact hv.symm
    · rfl

/-- Settles O38: the push goes above SP, and DROP moves SP only. -/
theorem ldiThenDropRestoresSp : Obligations.LdiThenDropRestoresSp := by
  intro v s hwf lo hi
  obtain ⟨-, stackCap, -⟩ := hwf
  have hsp : s16 (word (s16 s.sp + 1)) - s16 0x0001#16 = s16 s.sp := by
    rw [s16_word (by omega) (by omega), show s16 0x0001#16 = 1 by decide]; omega
  refine ⟨_, _, (ldiPushesItsWord v s).1 lo hi, (dropLowersSp _ _ _ hsp.symm).1 lo (le_of_lt hi), word_s16 s.sp,
    Memory.read_write_self _ _ _, fun k hk => Memory.read_write_other _ _ (by omega)⟩

/-! ### Binary operations -/

theorem bodyOf_binary {i : Instr} (hi : i ∈ [Instr.lt, .eq, .add, .sub, .mul]) : ∃ f, bodyOf i = binary f := by
  simp only [List.mem_cons, List.not_mem_nil, or_false] at hi
  rcases hi with rfl | rfl | rfl | rfl | rfl
  · exact ⟨_, bodyOf_lt⟩
  · exact ⟨_, bodyOf_eq⟩
  · exact ⟨_, bodyOf_add⟩
  · exact ⟨_, bodyOf_sub⟩
  · exact ⟨_, bodyOf_mul⟩

/-- With one value on the stack the second pop of a binary operation underflows. -/
theorem binary_underflow_second {f : Word → Word → Word} {s : State} (hsp : s16 s.sp = 0)
    (hcap : 1 ≤ s.params.stackCap) (hw : (s.os.read 0).isSome) : binary f s = .error (.raise .stackUnderflow (-1)) := by
  obtain ⟨b, hb⟩ := Option.isSome_iff_exists.1 hw
  have hpopped : s16 (s.setSp (s16 s.sp - 1)).sp = -1 := by rw [State.setSp_sp, hsp]; decide
  unfold binary
  rw [show pop s = .ok (b, s.setSp (s16 s.sp - 1)) from pop_eq ⟨by omega, by omega⟩ (by rw [hsp]; exact hb), ok_bind]
  exact (pop_bind_underflow (by omega)).trans (by rw [hpopped])

/-- Settles O43: the first pop, then the second. -/
theorem binaryOperationsUnderflow : Obligations.BinaryOperationsUnderflow := by
  intro i s hi
  obtain ⟨f, hf⟩ := bodyOf_binary hi
  refine ⟨fun hsp => exec_of_raise ?_, fun hsp hcap hw => exec_of_raise ?_⟩
  · rw [hf, binary, pop_bind_underflow (by rw [State.advance_sp]; omega), State.advance_sp, hsp]
  · rw [hf, binary_underflow_second (s := s.advance i.opcode) hsp hcap hw]

/-- Settles O44: the one push of a binary operation. -/
theorem binaryOperationsWriteOnlyTheResultCell : Obligations.BinaryOperationsWriteOnlyTheResultCell := by
  intro i s t hi _ h hne
  obtain ⟨f, hf⟩ := bodyOf_binary hi
  have hok := exec_completed h hne
  rw [hf] at hok
  obtain ⟨lo, -, a, b, -, -, rfl⟩ := binary_ok hok
  rw [State.advance_sp] at lo
  exact ⟨rfl, fun k hk => Memory.read_write_other s.os (f a b) (a := (s16 s.sp - 1).toNat) (by omega)⟩

theorem word_u16 (w : Word) : word (u16 w) = w := by
  simp only [word, u16, BitVec.ofInt_natCast, BitVec.ofNat_toNat, BitVec.setWidth_eq]

theorem word_add (x y : Int) : word (x + y) = word x + word y := BitVec.ofInt_add x y
theorem word_mul (x y : Int) : word (x * y) = word x * word y := BitVec.ofInt_mul x y
theorem word_sub (x y : Int) : word (x - y) = word x - word y := by
  rw [Int.sub_eq_add_neg, word_add, BitVec.sub_eq_add_neg, word, word, word, BitVec.ofInt_neg]

/-- Settles O45: `word` is a ring homomorphism and both readings of a word give it back. -/
theorem wrappedResultsIgnoreSignedness : Obligations.WrappedResultsIgnoreSignedness := by
  intro a b
  have hadd : word (s16 a + s16 b) = word (u16 a + u16 b) := by
    rw [word_add, word_add, word_s16, word_s16, word_u16, word_u16]
  refine ⟨hadd, ?_, ?_, fun h => ?_, fun ⟨lo, hi⟩ => ?_⟩
  · rw [word_sub, word_sub, word_s16, word_s16, word_u16, word_u16]
  · rw [word_mul, word_mul, word_s16, word_s16, word_u16, word_u16]
  · rw [← h]; exact s16_range _
  · rw [← hadd]; exact s16_word lo hi

/-! ### Branches -/

/-- Settles O48: BR leaves its target in IP for the next top of the loop. -/
theorem nextStepChecksTheBranchTarget : Obligations.NextStepChecksTheBranchTarget := by
  intro a s t hs h
  rw [brJumps a s, word_s16] at h
  cases h
  exact ⟨fun hge => step_of_ip_ge hs hge, fun hneg => ⟨step_of_ip_neg hs hneg, rfl⟩⟩

end Sys2Proof.Machine
end

section
/-! PROOFS. RET (spec/47_call_return.md R192, R194): its checks in pseudocode order, and the collapse it ends with. -/

namespace Sys2Proof.Machine

/-! ### The checks -/

section
variable {s : State}

theorem retBody_linkUnderflow (h : s16 s.lsp < 2) : retBody s = .error (.raise .linkUnderflow (s16 s.lsp)) := by
  unfold retBody; rw [if_pos h]

theorem retBody_imbalanced (lo : 2 ≤ s16 s.lsp) (h : imbalanced s) :
    retBody s = .error (.raise .frameImbalance (s16 s.sp - s16 s.fp)) := by
  unfold retBody; rw [if_neg (by omega), if_pos h]

theorem retBody_emptyStack (lo : 2 ≤ s16 s.lsp) (hb : ¬ imbalanced s) (h : s16 s.sp < 0) :
    retBody s = .error (.raise .stackUnderflow (s16 s.sp)) := by
  unfold retBody; rw [if_neg (by omega), if_neg hb, pop_bind_underflow h]

theorem collapse_underflow {n : Int} {rv : Word} (h : n < -1) :
    collapse n rv s = .error (.raise .stackUnderflow n) := by
  unfold collapse; rw [if_pos h]

theorem collapse_overflow {n : Int} {rv : Word} (lo : -1 ≤ n) (h : n > (s.params.stackCap : Int) - 2) :
    collapse n rv s = .error (.raise .stackOverflow (n + 1)) := by
  unfold collapse; rw [if_neg (by omega), if_pos h]

/-! ### Up to the collapse -/

variable {rv n savedFp retIp : Word}

/-- The states in which RET comes to its collapse, with the value and the record it has read: `ReturnsWith` without the
collapse's range. -/
structure ReadsFrame (s : State) (rv n savedFp retIp : Word) : Prop where
  lsp_low : 2 ≤ s16 s.lsp
  lsp_high : s16 s.lsp ≤ (s.params.linkCap : Int) - 1
  balanced : ¬ imbalanced s
  sp_inRange : inRange s.params.stackCap (s16 s.sp)
  read_top : s.os.read (s16 s.sp).toNat = some rv
  read_nargs : s.ls.read (s16 s.lsp - 2).toNat = some n
  read_savedFp : s.ls.read (s16 s.lsp - 1).toNat = some savedFp
  read_retIp : s.ls.read (s16 s.lsp).toNat = some retIp

theorem ReadsFrame.advance (h : ReadsFrame s rv n savedFp retIp) (o : Opcode) :
    ReadsFrame (s.advance o) rv n savedFp retIp := { h with }

theorem ReadsFrame.returnsWith (h : ReadsFrame s rv n savedFp retIp)
    (hm : inRange s.params.stackCap (s16 s.sp - s16 n)) : ReturnsWith s rv n savedFp retIp :=
  { h with collapse_inRange := hm }

/-- The state RET collapses from: the value popped, the record taken back. -/
def State.unlinked (s : State) (savedFp retIp : Word) : State :=
  (((s.setSp (s16 s.sp - 1)).setLsp (s16 s.lsp - 3)).setIp (s16 retIp)).setFp (s16 savedFp)

theorem retBody_eq_collapse (h : ReadsFrame s rv n savedFp retIp) :
    retBody s = collapse (s16 s.sp - 1 - s16 n) rv (s.unlinked savedFp retIp) := by
  have hlink : ∀ {i : Int} {w : Word}, 0 ≤ i → i ≤ s16 s.lsp → s.ls.read i.toNat = some w →
      readCell .ls i (s.setSp (s16 s.sp - 1)) = .ok w :=
    fun h₀ h₁ hw => readCell_eq (sp := .ls) ⟨h₀, h₁.trans h.lsp_high⟩ hw
  obtain ⟨hlow, -, hbal, hsp, htop, hn, hfp, hip⟩ := h
  have hrange := s16_range s.sp
  have hpopped : s16 (word (s16 s.sp - 1)) = s16 s.sp - 1 := s16_word (by have := hsp.1; omega) (by omega)
  unfold retBody
  rw [if_neg (by omega), if_neg hbal, show pop s = .ok (rv, s.setSp (s16 s.sp - 1)) from pop_eq hsp htop, ok_bind]
  simp only [State.setSp_sp, State.setSp_lsp]
  rw [hlink (by omega) le_rfl hip, ok_bind, hlink (by omega) (by omega) hfp, ok_bind, hlink (by omega) (by omega) hn,
    ok_bind, hpopped]
  rfl

theorem exec_ret_underflow (h : ReadsFrame s rv n savedFp retIp) (hm : s16 s.sp - s16 n < 0) :
    exec .ret s = .next (takeFault .stackUnderflow (s16 s.sp - 1 - s16 n) s) :=
  exec_of_raise ((retBody_eq_collapse (h.advance .ret)).trans (collapse_underflow (by rw [State.advance_sp]; omega)))

theorem exec_ret_overflow (h : ReadsFrame s rv n savedFp retIp)
    (hm : s16 s.sp - s16 n > (s.params.stackCap : Int) - 1) :
    exec .ret s = .next (takeFault .stackOverflow (s16 s.sp - s16 n) s) := by
  have hinfo : s16 s.sp - s16 n = s16 s.sp - 1 - s16 n + 1 := by omega
  have hcol : collapse (s16 s.sp - 1 - s16 n) rv ((s.advance .ret).unlinked savedFp retIp) =
      .error (.raise .stackOverflow (s16 s.sp - 1 - s16 n + 1)) :=
    collapse_overflow (by omega) (show s16 s.sp - 1 - s16 n > (s.params.stackCap : Int) - 2 by omega)
  rw [hinfo]
  exact exec_of_raise ((retBody_eq_collapse (h.advance .ret)).trans hcol)

end

theorem not_imbalanced {s : State} (h : s.params.retCheck = .strict → s16 s.sp = s16 s.fp + 1) : ¬ imbalanced s :=
  fun ⟨hstrict, hne⟩ => hne (h hstrict)

/-! ### The statements -/

/-- Settles O52: the hypotheses are `ReturnsWith`. -/
theorem retUnwindsOneFrame : Obligations.RetUnwindsOneFrame := by
  intro rv n savedFp retIp s hwf lo hi hbal sp₀ sp₁ htop hn hfp hip m₀ m₁
  obtain ⟨-, stackCap, -⟩ := hwf
  have hframe : ReadsFrame s rv n savedFp retIp := ⟨lo, hi, not_imbalanced hbal, ⟨sp₀, sp₁⟩, htop, hn, hfp, hip⟩
  rw [word_s16, word_s16]
  exact exec_ret_eq stackCap (hframe.returnsWith ⟨m₀, m₁⟩)

/-- Settles O53: RET's checks in pseudocode order, the last two in the collapse. -/
theorem retFaultsInOrder : Obligations.RetFaultsInOrder := by
  refine fun s => ⟨fun h => exec_of_raise (retBody_linkUnderflow (s := s.advance .ret) h),
    fun lo hstrict hne => exec_of_raise (retBody_imbalanced (s := s.advance .ret) lo ⟨hstrict, hne⟩),
    fun lo hbal h => exec_of_raise (retBody_emptyStack (s := s.advance .ret) lo (not_imbalanced hbal) h), ?_⟩
  intro rv n savedFp retIp _ lo hi hbal sp₀ sp₁ htop hn hfp hip
  have hframe : ReadsFrame s rv n savedFp retIp := ⟨lo, hi, not_imbalanced hbal, ⟨sp₀, sp₁⟩, htop, hn, hfp, hip⟩
  exact ⟨exec_ret_underflow hframe, exec_ret_overflow hframe⟩

/-- Settles O55: with FP = σ + s16(n) and SP = FP + j the collapse goes to σ + j, which s16(n) ≥ 0 keeps at or below SP. -/
theorem originalRetCollapsesFromSp : Obligations.OriginalRetCollapsesFromSp := by
  intro s rv n savedFp retIp σ j hwf horig lo hi hn hfp hip hσ hn₀ hanchor hsp hj hcap htop
  obtain ⟨-, stackCap, -⟩ := hwf
  have hbal : ¬ imbalanced s := fun ⟨hstrict, _⟩ => by rw [horig] at hstrict; cases hstrict
  have hframe : s16 s.sp ≠ -1 → ReadsFrame s rv n savedFp retIp := fun hne =>
    ⟨lo, hi, hbal, ⟨by omega, hcap⟩, htop (by omega), hn, hfp, hip⟩
  have hcollapse : s16 s.sp - s16 n = σ + j := by omega
  refine ⟨fun hempty => ?_, fun hne hlow => ?_, fun hne hm => ?_⟩
  · have hpop := retBody_emptyStack (s := s.advance .ret) lo hbal (by rw [State.advance_sp]; omega)
    rw [State.advance_sp, hempty] at hpop
    exact exec_of_raise hpop
  · have hret := exec_ret_underflow (hframe hne) (by omega)
    rwa [show s16 s.sp - 1 - s16 n = σ + j - 1 by omega] at hret
  · have hret := exec_ret_eq stackCap ((hframe hne).returnsWith ⟨by omega, by omega⟩)
    rw [hcollapse] at hret
    exact ⟨_, hret, s16_word (by omega) (by omega), Memory.read_write_self _ _ _,
      fun k hk => Memory.read_write_other _ _ (by omega), rfl, rfl,
      s16_word (by have := s16_range s.lsp; omega) (by have := s16_range s.lsp; omega)⟩

end Sys2Proof.Machine
end

section
/-! PROOFS. The invariant of the reachable states: it holds at power-up and at a start, every step keeps it, and under it the
model stops only on never-written data. -/

namespace Sys2Proof.Machine

/-! ### The state a run starts from -/

/-- What power-up and a start of a run have in common: no cell of OS, LS or HEAP written, empty stacks, no fault. -/
def freshState (program : List Word) (traceEn : Bool) (status : Status) (p : Params) : State :=
  { State.powerUp p with
    prog := Memory.ofWords program, progLen := BitVec.ofNat 16 program.length, traceEn := traceEn, status := status }

theorem powerUp_eq_freshState (p : Params) : State.powerUp p = freshState [] false .idle p := rfl

theorem hostStart_of_accepted {r : StartRequest} {s : State} (h : startAccepted r s) :
    hostStart r s = freshState r.program r.traceEn .running s.params := by
  unfold hostStart; rw [if_pos h]; rfl

theorem hostStart_of_refused {r : StartRequest} {s : State} (h : ¬ startAccepted r s) : hostStart r s = s := by
  unfold hostStart; rw [if_neg h]

section
variable {ws : List Word} {tr : Bool} {x : Status} {p : Params}

theorem freshState_prog_read (i : Nat) : (freshState ws tr x p).prog.read i = ws[i]? := Memory.read_ofWords ws i

theorem freshState_progLen (h : ws.length ≤ 32767) : (freshState ws tr x p).progLen.toNat = ws.length :=
  Nat.mod_eq_of_lt (by omega)

theorem freshState_inv (hp : p.wf) (hlen : ws.length ≤ p.progCap) (hx : x ≠ .faulted) : (freshState ws tr x p).Inv := by
  have ⟨stackCap, _, _, _, progCap, _⟩ := hp
  have hprogLen : (freshState ws tr x p).progLen.toNat = ws.length := freshState_progLen (by omega)
  have hempty : (0xFFFF#16).toInt = -1 := by decide
  have hlow : -1 ≤ (0xFFFF#16).toInt := hempty.ge
  have hhigh : (0xFFFF#16).toInt ≤ (p.stackCap : Int) - 1 := by omega
  exact {
    params := hp, sp_low := hlow, sp_high := hhigh, fp_low := hlow, fp_high := hhigh
    link := ⟨0, hempty, Nat.zero_le _, nofun⟩
    os_wf := Memory.wf_nil, ls_wf := Memory.wf_nil, heap_wf := Memory.wf_nil, prog_wf := Memory.ofWords_wf ws
    os_within := nofun, ls_within := nofun, heap_within := nofun
    progLen_le := hprogLen.trans_le hlen
    prog_loaded := fun i => by rw [freshState_prog_read, hprogLen, isSome_getElem?]
    fault_idle := fun _ => ⟨rfl, rfl, rfl⟩
    fault_taken := fun h => absurd h hx }

end

/-- Settles O19: power-up is the fresh state of an empty program. -/
theorem powerUpMeetsTheInvariant : Obligations.PowerUpMeetsTheInvariant := by
  have hp : ∀ p : Params, p.wf → (State.powerUp p).Inv := fun p hp => by
    rw [powerUp_eq_freshState]
    exact freshState_inv hp (Nat.zero_le _) (by decide)
  exact ⟨hp, hp defaultParams (by decide)⟩

/-- Settles O20: an accepted start leaves the fresh state of its program. -/
theorem startKeepsTheInvariant : Obligations.StartKeepsTheInvariant := by
  intro r s hinv
  by_cases h : startAccepted r s
  · rw [hostStart_of_accepted h]
    exact freshState_inv hinv.params h.2 (by decide)
  · rw [hostStart_of_refused h]
    exact hinv

/-! ### Updates that keep the invariant -/

section
variable {s t : State}

/-- The range State.Inv gives SP and FP. -/
def InStack (s : State) (c : Cursor) : Prop := -1 ≤ s16 c ∧ s16 c ≤ (s.params.stackCap : Int) - 1

theorem State.Inv.sp_inStack (h : s.Inv) : InStack s s.sp := ⟨h.sp_low, h.sp_high⟩

theorem State.Inv.word_inStack (h : s.Inv) {n : Int} (lo : -1 ≤ n) (hi : n ≤ (s.params.stackCap : Int) - 1) :
    InStack s (word n) := by
  obtain ⟨-, stackCap, -⟩ := h.params
  rw [InStack, s16_word (by omega) (by omega)]
  exact ⟨lo, hi⟩

theorem State.Inv.withChannel (h : s.Inv) (ch : List Event) : State.Inv { s with channel := ch } := { h with }

theorem State.Inv.takeFault (h : s.Inv) {c : Cause} (hc : c ≠ .none) (x : Int) : (takeFault c x s).Inv :=
  { h with fault_idle := fun hn => absurd rfl hn, fault_taken := fun _ => ⟨hc, rfl⟩ }

/-- No fault is taken, and SP and the operand stack stay in their ranges. -/
theorem State.Inv.withStack (h : s.Inv) (hs : s.status ≠ .faulted) {ip sp : Cursor} {os : Memory} {x : Status}
    {ch : List Event} (hsp : InStack s sp) (hwf : os.wf) (hin : os.within s.params.stackCap) (hx : x ≠ .faulted) :
    State.Inv { s with ip := ip, sp := sp, os := os, status := x, channel := ch } :=
  { h with
    sp_low := hsp.1, sp_high := hsp.2, os_wf := hwf, os_within := hin
    fault_idle := fun _ => h.fault_idle hs, fault_taken := fun hf => absurd hf hx }

/-- SP moves and one operand-stack cell is written. -/
theorem State.Inv.withCell (h : s.Inv) (hs : s.status ≠ .faulted) {ip sp : Cursor} {i : Int} (v : Word)
    (hsp : InStack s sp) (hi : inRange s.params.stackCap i) :
    State.Inv { s with ip := ip, sp := sp, os := s.os.write i.toNat v } :=
  h.withStack hs hsp (Memory.write_wf h.os_wf _ v)
    (Memory.write_within h.os_within (by have := hi.1; have := hi.2; omega) v) hs

/-- SP and IP move and an event may be emitted. -/
theorem State.Inv.withSp (h : s.Inv) (hs : s.status ≠ .faulted) {ip sp : Cursor} {ch : List Event} (hsp : InStack s sp) :
    State.Inv { s with ip := ip, sp := sp, channel := ch } :=
  h.withStack hs hsp h.os_wf h.os_within hs

theorem State.Inv.advance (h : s.Inv) (hs : s.status ≠ .faulted) (o : Opcode) : (s.advance o).Inv :=
  h.withSp hs h.sp_inStack

theorem State.Inv.withHeap (h : s.Inv) {m : Memory} (hwf : m.wf) (hin : m.within s.params.heapCap) :
    State.Inv { s with heap := m } := { h with heap_wf := hwf, heap_within := hin }

theorem State.Inv.popped_inStack (h : s.Inv) (hr : inRange s.params.stackCap (s16 s.sp)) :
    InStack s (word (s16 s.sp - 1)) :=
  h.word_inStack (by have := hr.1; omega) (by have := hr.2; omega)

/-! ### The linkage stack -/

theorem Memory.pushRecord_wf {m : Memory} (h : m.wf) (l : Int) (n fp ra : Word) : (m.pushRecord l n fp ra).wf :=
  Memory.write_wf (Memory.write_wf (Memory.write_wf h _ n) _ fp) _ ra

theorem Memory.pushRecord_within {m : Memory} {cap : Nat} (h : m.within cap) {l : Int} (lo : -1 ≤ l)
    (hi : l + 3 ≤ (cap : Int) - 1) (n fp ra : Word) : (m.pushRecord l n fp ra).within cap :=
  Memory.write_within (Memory.write_within (Memory.write_within h (by omega) n) (by omega) fp) (by omega) ra

/-- The record RET takes back, at LSP-2, LSP-1 and LSP. -/
theorem State.Inv.topRecord (h : s.Inv) (lo : 2 ≤ s16 s.lsp) :
    s16 s.lsp ≤ (s.params.linkCap : Int) - 1 ∧
    ∃ n fp ra, s.ls.read (s16 s.lsp - 2).toNat = some n ∧ s.ls.read (s16 s.lsp - 1).toNat = some fp ∧
      s.ls.read (s16 s.lsp).toNat = some ra ∧ InStack s fp := by
  obtain ⟨d, hlsp, hcap, hrec⟩ := h.link
  have hlsp : s16 s.lsp = 3 * (d : Int) - 1 := hlsp
  obtain ⟨n, fp, ra, hn, hfp, hra, fpLo, fpHi, -⟩ := hrec (d - 1) (by omega)
  refine ⟨by omega, n, fp, ra, ?_, ?_, ?_, fpLo, fpHi⟩
  · rw [show (s16 s.lsp - 2).toNat = 3 * (d - 1) by omega, hn]
  · rw [show (s16 s.lsp - 1).toNat = 3 * (d - 1) + 1 by omega, hfp]
  · rw [show (s16 s.lsp).toNat = 3 * (d - 1) + 2 by omega, hra]

/-- One record more: the ones below it stay, and it is a CALL's, with FP an anchor and the return address after the CALL. -/
theorem State.Inv.link_pushed (h : s.Inv) (hip : 0 ≤ s16 s.ip) (n : Word)
    (hi : s16 s.lsp + 3 ≤ (s.params.linkCap : Int) - 1) (hls : t.ls = s.ls.pushRecord (s16 s.lsp) n s.fp s.ip)
    (hp : t.params = s.params) :
    ∃ d : Nat, s16 (word (s16 s.lsp + 3)) = 3 * (d : Int) - 1 ∧ 3 * d ≤ s.params.linkCap ∧
      ∀ k < d, linkRecordOk t k := by
  obtain ⟨-, -, linkCap, -⟩ := h.params
  obtain ⟨d, hlsp, -, hrec⟩ := h.link
  have hlsp : s16 s.lsp = 3 * (d : Int) - 1 := hlsp
  refine ⟨d + 1, by rw [s16_word (by omega) (by omega)]; omega, by omega, fun k hk => ?_⟩
  unfold linkRecordOk
  rw [hls, hp]
  by_cases hkd : k < d
  · obtain ⟨n', fp, ra, hn, hfp, hra, hrange⟩ := hrec k hkd
    have hbelow : ∀ j : Nat, j ≤ 3 * k + 2 →
        (s.ls.pushRecord (s16 s.lsp) n s.fp s.ip).read j = s.ls.read j := fun j hj =>
      Memory.read_pushRecord_other _ _ _ _ (by omega) (by omega) (by omega) (by omega)
    exact ⟨n', fp, ra, (hbelow _ (by omega)).trans hn, (hbelow _ (by omega)).trans hfp, (hbelow _ le_rfl).trans hra,
      hrange⟩
  · refine ⟨n, s.fp, s.ip, ?_, ?_, ?_, h.fp_low, h.fp_high, hip⟩
    · rw [show 3 * k = (s16 s.lsp + 1).toNat by omega, Memory.read_pushRecord_nargs _ _ _ _ (by omega)]
    · rw [show 3 * k + 1 = (s16 s.lsp + 2).toNat by omega, Memory.read_pushRecord_savedFp _ _ _ _ (by omega)]
    · rw [show 3 * k + 2 = (s16 s.lsp + 3).toNat by omega, Memory.read_pushRecord_retIp]

theorem callBody_inv {a n : Word} (h : s.Inv) (hs : s.status ≠ .faulted) (hip : 0 ≤ s16 s.ip)
    (hok : callBody a n s = .ok t) : t.Inv := by
  obtain ⟨lo, hi, rfl⟩ := callBody_pushes hok
  exact { h with
    fp_low := h.sp_low, fp_high := h.sp_high
    link := h.link_pushed hip n hi rfl rfl
    ls_wf := Memory.pushRecord_wf h.ls_wf _ _ _ _
    ls_within := Memory.pushRecord_within h.ls_within lo hi _ _ _
    fault_taken := fun hf => absurd hf hs }

/-- One record fewer. -/
theorem State.Inv.link_popped (h : s.Inv) (lo : 2 ≤ s16 s.lsp) :
    ∃ d : Nat, s16 (word (s16 s.lsp - 3)) = 3 * (d : Int) - 1 ∧ 3 * d ≤ s.params.linkCap ∧
      ∀ k < d, linkRecordOk s k := by
  obtain ⟨d, hlsp, hcap, hrec⟩ := h.link
  have hlsp : s16 s.lsp = 3 * (d : Int) - 1 := hlsp
  have hrange := s16_range s.lsp
  exact ⟨d - 1, by rw [s16_word (by omega) (by omega)]; omega, by omega, fun k hk => hrec k (by omega)⟩

theorem retBody_inv (h : s.Inv) (hs : s.status ≠ .faulted) (hok : retBody s = .ok t) : t.Inv := by
  obtain ⟨-, stackCap, -⟩ := h.params
  obtain ⟨lo, -, -, -, rv, retIp, savedFp, n, -, -, hfp, -, hm, rfl⟩ := retBody_ok stackCap hok
  obtain ⟨-, -, fp, -, -, hfp', -, fpLo, fpHi⟩ := h.topRecord lo
  obtain rfl : savedFp = fp := Option.some.inj (hfp.symm.trans hfp')
  have hstack : State.Inv { s with sp := word (s16 s.sp - s16 n), os := s.os.write (s16 s.sp - s16 n).toNat rv } :=
    h.withCell hs rv (h.word_inStack (by have := hm.1; omega) hm.2) hm
  rw [word_s16 savedFp]
  exact { hstack with
    fp_low := fpLo, fp_high := fpHi
    link := h.link_popped lo
    fault_taken := fun hf => absurd hf hs }

/-! ### Every step keeps the invariant -/

/-- The IP of `s` is the one the operand fetches left, which CALL saves. -/
theorem bodyOf_inv (i : Instr) (h : s.Inv) (hs : s.status = .running) (hip : 0 ≤ s16 s.ip) (hok : bodyOf i s = .ok t) :
    t.Inv := by
  have hs : s.status ≠ .faulted := by rw [hs]; decide
  have hpushed : inRange s.params.stackCap (s16 s.sp + 1) → InStack s (word (s16 s.sp + 1)) := fun hr =>
    h.word_inStack (by have := hr.1; omega) hr.2
  cases i with
  | nop => cases hok; exact h
  | ldi v => obtain ⟨hr, rfl⟩ := push_ok hok; exact h.withCell hs v (hpushed hr) hr
  | ldf a => obtain ⟨-, hr, v, -, rfl⟩ := ldfBody_ok hok; exact h.withCell hs v (hpushed hr) hr
  | ldh a => obtain ⟨-, hr, v, -, rfl⟩ := ldhBody_ok hok; exact h.withCell hs v (hpushed hr) hr
  | stf a => obtain ⟨hr, hf, v, -, rfl⟩ := stfBody_ok hok; exact h.withCell hs v (h.popped_inStack hr) hf
  | sth a =>
    obtain ⟨hr, ⟨lo, hi⟩, v, -, rfl⟩ := sthBody_ok hok
    exact (h.withSp hs (h.popped_inStack hr)).withHeap (Memory.write_wf h.heap_wf _ v)
      (Memory.write_within h.heap_within (by omega) v)
  | drop n | res n => obtain ⟨lo, hi, rfl⟩ := adjustSp_ok hok; exact h.withSp hs (h.word_inStack lo hi)
  | lt | eq | add | sub | mul =>
    simp only [bodyOf] at hok
    obtain ⟨lo, hi, a, b, -, -, rfl⟩ := binary_ok hok
    exact h.withCell hs _ (h.word_inStack (by omega) (by omega)) ⟨by omega, by omega⟩
  | br a => cases hok; exact h.withSp hs h.sp_inStack
  | brt a | brf a => obtain ⟨hr, v, -, rfl⟩ := popBranch_ok hok; exact h.withSp hs (h.popped_inStack hr)
  | trap c => obtain ⟨-, hr, v, -, rfl⟩ := trapBody_ok hok; exact h.withSp hs (h.popped_inStack hr)
  | call a n => exact callBody_inv h hs hip hok
  | ret => exact retBody_inv h hs hok
  | halt => cases hok; exact h.withStack hs h.sp_inStack h.os_wf h.os_within (by decide)

theorem none_not_mem_raisableCauses (i : Instr) : Cause.none ∉ raisableCauses i := by
  cases i <;> simp [raisableCauses]

theorem exec_inv {i : Instr} (h : s.Inv) (hs : s.status = .running) (hip : 0 ≤ s16 s.ip)
    (hlen : s16 s.ip + i.opcode.length ≤ 32767) (hexec : exec i s = .next t) : t.Inv := by
  rcases exec_next hexec with hok | ⟨c, x, hraise, rfl⟩
  · have hnot : s.status ≠ .faulted := by rw [hs]; decide
    have hadv : s16 (s.advance i.opcode).ip = s16 s.ip + i.opcode.length := s16_word (by omega) hlen
    exact bodyOf_inv (s := s.advance i.opcode) i (h.advance hnot i.opcode) hs (by omega) hok
  · have hc := bodyOf_raisesOnly i _ c x hraise
    exact h.takeFault (fun hnone => none_not_mem_raisableCauses i (hnone ▸ hc)) x

@[simp] theorem openStep_ip (i : Instr) (s : State) : (openStep i s).ip = s.ip := by rw [openStep_eq]

theorem openStep_inv (h : s.Inv) (i : Instr) : (openStep i s).Inv := by
  rw [openStep_eq]; exact h.withChannel _

theorem fetch_raise_ne_none {c : Cause} {x : Int} (hf : fetch s = .stopped (.raise c x)) : c ≠ .none := by
  rcases fetch_raise hf with ⟨-, rfl⟩ | ⟨-, -, ⟨rfl, -⟩ | ⟨rfl, -⟩⟩ <;> decide

end

/-- Settles O18: a fault keeps everything the invariant bounds, and a completed instruction is `exec_inv`. -/
theorem stepKeepsTheInvariant : Obligations.StepKeepsTheInvariant := by
  intro s t h hstep
  rcases step_next hstep with ⟨-, rfl⟩ | ⟨hs, -, rfl⟩ | ⟨-, c, x, hf, rfl⟩ | ⟨hs, i, u, hf, hu, rfl⟩
  · exact h
  · exact h.withStack (by rw [hs]; decide) h.sp_inStack h.os_wf h.os_within (by decide)
  · exact h.takeFault (fetch_raise_ne_none hf) x
  · obtain ⟨lo, hi, -⟩ := fetch_decoded hf
    obtain ⟨-, -, -, -, progCap, -⟩ := h.params
    have hlen := h.progLen_le
    have hlast : s16 s.ip + i.opcode.length ≤ 32767 := by omega
    rw [postStep_eq]
    exact State.Inv.withChannel (exec_inv (openStep_inv h i) ((openStep_status i s).trans hs)
      (by rw [openStep_ip]; exact lo) (by rw [openStep_ip]; exact hlast) hu) _

end Sys2Proof.Machine
end

section
/-! PROOFS. Where the model itself stops (spec/93_implementation_defined.md I3, I4): under the invariant, only on a read of a
never-written operand-stack or heap cell. -/

namespace Sys2Proof.Machine

/-- `f` is a read of an operand-stack or heap cell that exists and is not written in `s`. -/
def ReadsUnwritten (s : State) (f : Fault) : Prop :=
  ∃ k : Nat,
    (f = .uninitialisedRead .os k ∧ k < s.params.stackCap ∧ s.os.read k = none) ∨
    (f = .uninitialisedRead .heap k ∧ k < s.params.heapCap ∧ s.heap.read k = none)

/-- The model stops only on never-written data of `s`; the faults a body raises are no stops of the model. -/
def StopsOnUnwritten {α : Type} (s : State) (r : Except Stop α) : Prop :=
  ∀ f, r = .error (.model f) → ReadsUnwritten s f

/-! ### How pseudocode is put together -/

section
variable {α β : Type} {s : State}

theorem StopsOnUnwritten.ok (a : α) : StopsOnUnwritten s (.ok a) := nofun

theorem StopsOnUnwritten.raise (c : Cause) (x : Int) :
    StopsOnUnwritten s (.error (.raise c x) : Except Stop α) := nofun

theorem StopsOnUnwritten.bind {r : Except Stop α} {f : α → Except Stop β} (hr : StopsOnUnwritten s r)
    (hf : ∀ a, r = .ok a → StopsOnUnwritten s (f a)) : StopsOnUnwritten s (r >>= f) := by
  intro x h
  rcases bind_eq_error h with hr' | ⟨a, ha, hfa⟩
  · exact hr x hr'
  · exact hf a ha x hfa

theorem StopsOnUnwritten.ite {p : Prop} [Decidable p] {r r' : Except Stop α} (hr : p → StopsOnUnwritten s r)
    (hr' : ¬ p → StopsOnUnwritten s r') : StopsOnUnwritten s (if p then r else r') := by
  split
  · exact hr ‹_›
  · exact hr' ‹_›

theorem StopsOnUnwritten.of_eq_ok {r : Except Stop α} {a : α} (h : r = .ok a) : StopsOnUnwritten s r := by
  rw [h]; exact .ok a

end

/-! ### The shared operations -/

section
variable {s u : State}

theorem readCell_os_stops {i : Int} (hr : inRange s.params.stackCap i) : StopsOnUnwritten s (readCell .os i s) := by
  intro f h
  rcases readCell_error h with ⟨⟨lo, hi⟩, hw, hf⟩ | ⟨hn, -⟩
  · rw [State.bound_os] at hi
    cases hf
    exact ⟨i.toNat, .inl ⟨by rw [Int.toNat_of_nonneg lo], by omega, hw⟩⟩
  · exact absurd hr hn

theorem readCell_heap_stops {i : Int} (hr : inRange s.params.heapCap i) : StopsOnUnwritten s (readCell .heap i s) := by
  intro f h
  rcases readCell_error h with ⟨⟨lo, hi⟩, hw, hf⟩ | ⟨hn, -⟩
  · rw [State.bound_heap] at hi
    cases hf
    exact ⟨i.toNat, .inr ⟨by rw [Int.toNat_of_nonneg lo], by omega, hw⟩⟩
  · exact absurd hr hn

/-- A push above a stack pointer of at least -1 overflows or writes. -/
theorem push_stops {v : Word} (lo : -1 ≤ s16 u.sp) : StopsOnUnwritten s (push v u) := by
  by_cases hfull : s16 u.sp ≥ (u.params.stackCap : Int) - 1
  · rw [push_overflow hfull]; exact .raise _ _
  · exact .of_eq_ok (push_eq (inRange_sp_succ lo (by omega)))

theorem pop_stops (hi : s16 s.sp ≤ (s.params.stackCap : Int) - 1) : StopsOnUnwritten s (pop s) :=
  .ite (fun _ => .raise _ _) fun lo => .bind (readCell_os_stops ⟨by omega, hi⟩) fun _ _ => .ok _

/-- A pop leaves SP in its range. -/
theorem pop_sp {v : Word} (h : pop s = .ok (v, u)) : InStack s u.sp ∧ u = s.setSp (s16 s.sp - 1) := by
  obtain ⟨⟨lo, hi⟩, -, rfl⟩ := pop_ok h
  have hsp : s16 (word (s16 s.sp - 1)) = s16 s.sp - 1 := s16_word (by omega) (by have := s16_range s.sp; omega)
  exact ⟨⟨by show -1 ≤ s16 (word _); omega, by show s16 (word _) ≤ _; omega⟩, rfl⟩

theorem adjustSp_stops (n : Int) : StopsOnUnwritten s (adjustSp n u) :=
  .ite (fun _ => .raise _ _) fun _ => .ite (fun _ => .raise _ _) fun _ => .ok _

theorem binary_stops (f : Word → Word → Word) (hi : s16 s.sp ≤ (s.params.stackCap : Int) - 1) :
    StopsOnUnwritten s (binary f s) := by
  refine .bind (pop_stops hi) fun (b, s₁) h₁ => ?_
  obtain ⟨⟨-, hi₁⟩, rfl⟩ := pop_sp h₁
  refine .bind (pop_stops hi₁) fun (a, s₂) h₂ => ?_
  obtain ⟨⟨lo₂, -⟩, -⟩ := pop_sp h₂
  exact push_stops lo₂

theorem popBranch_stops (f : Word → Bool) (a : Word) (hi : s16 s.sp ≤ (s.params.stackCap : Int) - 1) :
    StopsOnUnwritten s (popBranch f a s) :=
  .bind (pop_stops hi) fun _ _ => .ok _

/-! ### The instructions -/

theorem ldfBody_stops (a : Word) (lo : -1 ≤ s16 s.sp) : StopsOnUnwritten s (ldfBody a s) :=
  .ite (fun hr => .bind (readCell_os_stops hr) fun _ _ => push_stops lo) fun _ => .raise _ _

theorem ldhBody_stops (a : Word) (lo : -1 ≤ s16 s.sp) : StopsOnUnwritten s (ldhBody a s) :=
  .ite (fun hr => .bind (readCell_heap_stops hr) fun _ _ => push_stops lo) fun _ => .raise _ _

theorem stfBody_stops (a : Word) (hi : s16 s.sp ≤ (s.params.stackCap : Int) - 1) : StopsOnUnwritten s (stfBody a s) :=
  .bind (pop_stops hi) fun (_, s₁) h => by
    obtain ⟨-, rfl⟩ := pop_sp h
    exact .ite (fun hr => .of_eq_ok (writeCell_eq (sp := .os) hr)) fun _ => .raise _ _

theorem sthBody_stops (a : Word) (hi : s16 s.sp ≤ (s.params.stackCap : Int) - 1) : StopsOnUnwritten s (sthBody a s) :=
  .bind (pop_stops hi) fun (_, s₁) h => by
    obtain ⟨-, rfl⟩ := pop_sp h
    exact .ite (fun hr => .of_eq_ok (writeCell_eq (sp := .heap) hr)) fun _ => .raise _ _

theorem trapBody_stops (c : Word) (hi : s16 s.sp ≤ (s.params.stackCap : Int) - 1) : StopsOnUnwritten s (trapBody c s) :=
  .ite (fun _ => .raise _ _) fun _ => .bind (pop_stops hi) fun _ _ => .ok _

theorem callBody_stops (a n : Word) (lo : -1 ≤ s16 s.lsp) : StopsOnUnwritten s (callBody a n s) := by
  by_cases hfull : s16 s.lsp + 3 > (s.params.linkCap : Int) - 1
  · rw [callBody_overflow hfull]; exact .raise _ _
  · exact .of_eq_ok (callBody_eq lo (by omega))

theorem collapse_stops {n : Int} (rv : Word) (hcap : u.params.stackCap ≤ 32767) :
    StopsOnUnwritten s (collapse n rv u) :=
  .ite (fun _ => .raise _ _) fun lo => .ite (fun _ => .raise _ _) fun hi => push_stops (by
    rw [State.setSp_sp, s16_word (by omega) (by omega)]; omega)

/-- The invariant's top record is written, so RET's record reads never stop. -/
theorem retBody_stops (h : s.Inv) : StopsOnUnwritten s (retBody s) := by
  obtain ⟨-, stackCap, -⟩ := h.params
  refine .ite (fun _ => .raise _ _) fun lo => .ite (fun _ => .raise _ _) fun _ => .bind (pop_stops h.sp_high) ?_
  rintro ⟨rv, s₁⟩ hpop
  obtain ⟨hhigh, n, fp, ra, hn, hfp, hra, -⟩ := h.topRecord (by omega)
  obtain ⟨-, rfl⟩ := pop_sp hpop
  have hread : ∀ {i : Int} {w : Word}, 0 ≤ i → i ≤ s16 s.lsp → s.ls.read i.toNat = some w →
      StopsOnUnwritten s (readCell .ls i (s.setSp (s16 s.sp - 1))) :=
    fun h₀ h₁ hw => .of_eq_ok (readCell_eq (sp := .ls) ⟨h₀, h₁.trans hhigh⟩ hw)
  simp only [State.setSp_lsp]
  exact .bind (hread (by omega) le_rfl hra) fun _ _ => .bind (hread (by omega) (by omega) hfp) fun _ _ =>
    .bind (hread (by omega) (by omega) hn) fun _ _ => collapse_stops rv stackCap

theorem bodyOf_stops (i : Instr) (h : s.Inv) : StopsOnUnwritten s (bodyOf i s) := by
  have hi : s16 s.sp ≤ (s.params.stackCap : Int) - 1 := h.sp_high
  have lo : -1 ≤ s16 s.sp := h.sp_low
  cases i with
  | nop | br a | halt => exact .ok _
  | ldi v => exact push_stops lo
  | ldf a => exact ldfBody_stops a lo
  | ldh a => exact ldhBody_stops a lo
  | stf a => exact stfBody_stops a hi
  | sth a => exact sthBody_stops a hi
  | drop n | res n => exact adjustSp_stops _
  | lt | eq | add | sub | mul => simp only [bodyOf]; exact binary_stops _ hi
  | brt a | brf a => exact popBranch_stops _ a hi
  | trap c => exact trapBody_stops c hi
  | call a n =>
    obtain ⟨d, hlsp, -⟩ := h.link
    exact callBody_stops a n (by show -1 ≤ s.lsp.toInt; omega)
  | ret => exact retBody_stops h

/-! ### The fetch -/

/-- Every program cell below PROG_LEN is loaded, so a word the fetch misses lies at PROG_LEN. -/
theorem fetch_ne_model (h : s.Inv) (f : Fault) : fetch s ≠ .stopped (.model f) := by
  intro hf
  rcases fetch_cases (by rw [hf]; exact Fetched.noConfusion) with ⟨-, hneg⟩ | ⟨lo, hi, hdec⟩
  · rw [hneg] at hf; cases hf
  rw [hdec] at hf
  have hcount := length_fetchWords (s := s) (n := 3) (j := (s16 s.ip).toNat) fun k _ hk => (h.prog_loaded k).2 hk
  cases hd : decode s.params.opcodeMap (fetchWords 3 (s16 s.ip).toNat s) with
  | ok r => rw [fetchDecode_of_ok hd] at hf; cases hf
  | error e =>
    rcases decode_error hd with ⟨hnil, rfl⟩ | ⟨w, ws, -, -, rfl⟩ | ⟨o, ws, hws, hshort, rfl⟩
    · rw [hnil, List.length_nil] at hcount
      omega
    · rw [fetchDecode_of_unknown hd] at hf; cases hf
    · have hthree := opcode_length_le o
      have hlength : o.length = 1 + o.ops := rfl
      have hone := congrArg List.length hws
      rw [List.length_cons] at hone
      rw [fetchDecode_of_truncated hd, missingWord_of_ge (by omega)] at hf
      cases hf

end

/-! ### The step -/

theorem closeStep_fault {r : Host.Outcome State Fault Refusal} {f : Fault} (h : closeStep r = .fault f) : r = .fault f := by
  cases r with
  | next t => cases h
  | fault g => exact h
  | refused x => cases h

/-- A step that stops the model stops it in the fetch or in the fetched instruction. -/
theorem step_fault {s : State} {f : Fault} (h : step s = .fault f) :
    fetch s = .stopped (.model f) ∨ s.status = .running ∧ ∃ i, exec i (openStep i s) = .fault f := by
  by_cases hs : s.status = .running
  · cases hf : fetch s with
    | ended => rw [step_of_ended hs hf] at h; cases h
    | stopped e =>
      rw [step_of_stopped hs hf] at h
      exact .inl (congrArg Fetched.stopped (Except.error.inj (conclude_fault h)))
    | decoded i =>
      rw [step_of_decoded hs hf] at h
      exact .inr ⟨hs, i, closeStep_fault h⟩
  · rw [step_of_not_running hs] at h; cases h

theorem exec_stops {i : Instr} {s : State} {f : Fault} (h : s.Inv) (hs : s.status = .running)
    (hexec : exec i s = .fault f) : ReadsUnwritten s f := by
  rw [exec_eq_runBody] at hexec
  exact bodyOf_stops i (h.advance (by rw [hs]; decide) i.opcode) f (conclude_fault hexec)

/-- Settles O21: the fetch never stops the model, and an instruction stops it on never-written data. -/
theorem modelStopsOnlyOnUnwrittenData : Obligations.ModelStopsOnlyOnUnwrittenData := by
  intro s f h hstep
  rcases step_fault hstep with hf | ⟨hs, i, hexec⟩
  · exact absurd hf (fetch_ne_model h f)
  · have hstop := exec_stops (openStep_inv h i) ((openStep_status i s).trans hs) hexec
    rwa [openStep_eq] at hstop

end Sys2Proof.Machine
end

section
/-! PROOFS. What the host sees: the fault registers, the status read, the start of a run and the read-back
(spec/10_state.md R28 to R31, spec/70_reset_and_hazards.md R240 to R243). -/

namespace Sys2Proof.Machine

/-- Settles O15: FAULT_INFO's 32 bits hold every information a rule can give. -/
theorem takingAFaultWritesItsRegisters : Obligations.TakingAFaultWritesItsRegisters := fun _ _ _ lo hi =>
  ⟨rfl, BitVec.toInt_ofInt_eq_self (by decide) (by omega) (by omega)⟩

/-- Settles O17: the code functions, evaluated on the closed lists. -/
theorem statusAndCauseCodes : Obligations.StatusAndCauseCodes := ⟨by decide, by decide, fun _ => rfl⟩

/-- Settles O57: an accepted request leaves `freshState`. -/
theorem startSetsUpTheRun : Obligations.StartSetsUpTheRun := by
  rintro r s t rfl
  refine ⟨fun hs hlen hcap => ?_, fun h => hostStart_of_refused fun ⟨hs, hlen⟩ => ?_⟩
  · rw [hostStart_of_accepted ⟨hs, hlen⟩]
    have hempty : s16 0xFFFF#16 = -1 := by decide
    exact ⟨freshState_prog_read, freshState_progLen (by omega), rfl, rfl, hempty, hempty, hempty, rfl, rfl, rfl, rfl, rfl,
      rfl, fun _ => ⟨rfl, rfl, rfl⟩⟩
  · rcases h with h | h
    · exact hs h
    · omega

/-! ### Read-back -/

section
variable {s : State} {sp : Space} {i : Nat}

theorem hostReadCell_running (h : s.status = .running) : hostReadCell sp i s = .refused := by
  unfold hostReadCell; rw [if_pos h]

theorem hostReadCell_of_lt (h : s.status ≠ .running) (hi : i < s.bound sp) :
    hostReadCell sp i s = ((s.space sp).read i).elim .unspecified .value := by
  unfold hostReadCell
  rw [if_neg h, if_pos hi]
  cases (s.space sp).read i <;> rfl

theorem hostReadCell_of_ge (h : s.status ≠ .running) (hi : s.bound sp ≤ i) : hostReadCell sp i s = .noSuchCell := by
  unfold hostReadCell; rw [if_neg h, if_neg (Nat.not_lt.2 hi)]

end

/-- Settles O58: one lemma per answer of the read-back. -/
theorem readBackOnlyWhenNotRunning : Obligations.ReadBackOnlyWhenNotRunning := by
  refine fun s => ⟨⟨rfl, rfl, rfl, rfl⟩, fun h => ⟨if_pos h, fun _ _ => hostReadCell_running h⟩,
    fun h => ⟨if_neg h, fun sp i => ?_⟩⟩
  refine ⟨fun hi => ⟨fun w hw => ?_, fun hw => ?_⟩, hostReadCell_of_ge h⟩
  · rw [hostReadCell_of_lt h hi, hw]; rfl
  · rw [hostReadCell_of_lt h hi, hw]; rfl

end Sys2Proof.Machine
end
